-- ==== Sys2Proof/Word.lean ====
section
/-! DEFINITION. The bit-vector names of the block: a byte (spec R10), a continuation count (R16, R23, two bits),
a 4-bit table index or range index (R17, R38, R64) and a 3-bit correction (R20). Widths are those of decision D3. -/

namespace Sys2Proof

/-- A byte of the input buffer, 8 bits, bit 7 most significant (R10, R58). -/
abbrev Byte := BitVec 8

/-- A continuation count, 0 to 3 (R16, R23, R38). -/
abbrev Count := BitVec 2

/-- A 4-bit index: the high nibble that indexes CCNT and RBASE (R64), or a range index 0 to 15 (R17, R66). -/
abbrev Index := BitVec 4

/-- A correction constant, 0, 2, 3 or 4 (R20, R38). -/
abbrev Correction := BitVec 3

end Sys2Proof
end

