-- ==== Sys2Proof/Config.lean ====
section
/-! DEFINITION. What an implementation fixes. N is 32 for this hardware (R5, D1); every datapath definition of the
model takes N as an argument and the machine is its value at Config.blockSize. LEN_BITS and ADDR_BITS are OPEN
(R8, D10, D11) and TAIL is an external collaborator taken as a parameter (R9, R125, D16): they are the fields of Params,
which the sequencer takes as an argument. The value the machine runs with is Sys2Proof.Machine.hardware
(Sys2Proof/Machine/Tail.lean). -/

namespace Sys2Proof

/-- N, the number of bytes one BLOCK command consumes, for this hardware (R5, D1). -/
abbrev Config.blockSize : Nat := 32

/-- The least block size the spec gives a meaning (R5, R164, D23). -/
abbrev Config.minBlockSize : Nat := 4

/-- The parameters the spec leaves open to the model as arguments. -/
structure Params where
  /-- LEN_BITS, the width of LEN and POS (R8, D10): `none` is the unbounded natural number the spec lets a model use. -/
  lenBits : Option Nat
  /-- ADDR_BITS, the width of a byte address (R8, D11): `none` is the unbounded natural number. -/
  addrBits : Option Nat
  /-- TAIL, a pure total function of the bytes of the slice it is handed (R125). -/
  tail : List Byte → Bool

end Sys2Proof
end

