-- ==== Sys2Proof/Syntax.lean ====
section
/-! DEFINITION. The command set: the four rows of spec/opcode_table.json (R68). VALIDATE and RESET are no commands of the
command port (R70, R77): they are requests of the host (Machine/State.lean) and lines of the textual form (WellFormed.lean). -/

namespace Sys2Proof

/-- A command of the command port (R60, R68), its operand pulled out of the encoding. -/
inductive Instr where
  /-- NOP, format Z, `cmd_op = 00` (R78). -/
  | nop
  /-- INIT, format Z, `cmd_op = 01` (R104). -/
  | init
  /-- BLOCK, format B, `cmd_op = 10` (R79): exactly N bytes in lane order, lane 0 first (R65, R76). The number of lanes is
  in the type, since no partial block, byte enable or lane mask exists (R99, R159, D24). -/
  | block (lanes : Vector Byte Config.blockSize)
  /-- FINISH, format Z, `cmd_op = 11` (R106). -/
  | finish
  deriving DecidableEq, Repr

end Sys2Proof
end

