-- ==== Sys2Proof/WellFormed.lean ====
section
/-! DEFINITION. The checks on what is handed to the block from outside. A term of Instr carries its lane count in its type,
so every Instr is well formed; what can be ill formed is a line of the textual form (a BLOCK line with a wrong number of bytes,
R76, R159), a block size below 4 (R5, R164), and a VALIDATE request whose numbers do not fit the widths (R130 P3). -/

namespace Sys2Proof

/-- A line of the textual form of R76 and R77 after its tokens are read: the four commands and the two pseudo-instructions.
Here a BLOCK line may still hold any number of bytes. -/
inductive Line where
  | nop
  | init
  | block (bytes : List Byte)
  | finish
  /-- RESET, the hardware reset (R77, R152). -/
  | reset
  /-- VALIDATE on a buffer holding these bytes (R77, R114). -/
  | validate (bytes : List Byte)
  deriving DecidableEq, Repr

/-- `BLOCK b0 b1 ... b(N-1)` takes exactly N bytes (R76, R159); every other line is well formed as it is. -/
def Line.wellFormed : Line → Bool
  | .block bytes => bytes.length == Config.blockSize
  | .nop | .init | .finish | .reset | .validate _ => true

/-- P4: N >= 4; a narrower block is refused (R5, R130, R164, D23). -/
def blockSizeOk (n : Nat) : Bool := Config.minBlockSize ≤ n

/-- Whether a natural number bound is met: `none` is no bound. -/
def fitsBelow (bits : Option Nat) (value : Nat) : Bool :=
  match bits with
  | none => true
  | some k => value < 2 ^ k

/-- P3, first half: `LEN < 2^LEN_BITS` (R130). -/
def Params.lenOk (p : Params) (len : Nat) : Bool := fitsBelow p.lenBits len

/-- P3, second half: `BASE + LEN <= 2^ADDR_BITS` (R41, R130). -/
def Params.addrOk (p : Params) (base len : Nat) : Bool :=
  match p.addrBits with
  | none => true
  | some k => base + len ≤ 2 ^ k

end Sys2Proof
end

