-- ==== Sys2Proof/Decode.lean ====
section
/-! DEFINITION. The command port's encoding and its decoder and encoder (R60 to R69, R72). A command word is the two input
signals `cmd_op` and `cmd_data`. As one number (the numbering of spec/opcode_table.json) bit 0 is `cmd_op[0]` and the operand's bits
count on from bit 2: the image is the concatenation of `cmd_data` above `cmd_op`. -/

namespace Sys2Proof

/-- The input signals of the command port (R60). -/
structure CommandWord where
  /-- `cmd_op[1:0]`. -/
  op : BitVec 2
  /-- `cmd_data[8N-1:0]`, meaningful only for BLOCK (R60, R61). -/
  data : BitVec (8 * Config.blockSize)
  deriving DecidableEq, Repr

/-- A row of the opcode table: `match` and `mask` over the 2-bit `cmd_op` (R69). -/
structure OpcodeRow where
  mnemonic : String
  pattern : BitVec 2
  mask : BitVec 2
  deriving DecidableEq, Repr

/-- spec/opcode_table.json, row by row (R68). -/
def opcodeTable : List OpcodeRow :=
  [ { mnemonic := "NOP", pattern := 0b00#2, mask := 0b11#2 },
    { mnemonic := "INIT", pattern := 0b01#2, mask := 0b11#2 },
    { mnemonic := "BLOCK", pattern := 0b10#2, mask := 0b11#2 },
    { mnemonic := "FINISH", pattern := 0b11#2, mask := 0b11#2 } ]

/-- Whether a row selects an opcode. -/
def OpcodeRow.selects (r : OpcodeRow) (op : BitVec 2) : Bool := op &&& r.mask == r.pattern

/-- Lane `i` of a block operand: `in[i] = cmd_data[8i+7 : 8i]`, lane 0 least significant (R45, R62, R65). -/
def dataLane {w : Nat} (data : BitVec w) (i : Nat) : Byte := data.extractLsb' (8 * i) 8

/-- The operand of BLOCK as its N lanes (R65), for any N. -/
def unpackLanes (n : Nat) (data : BitVec (8 * n)) : Vector Byte n := Vector.ofFn fun i => dataLane data i

/-- The number whose base-256 digits, least significant first, are the given bytes. -/
def packNat : List Byte → Nat
  | [] => 0
  | b :: rest => b.toNat + 256 * packNat rest

/-- The N lanes packed onto `cmd_data`, lane 0 least significant (R45, R62). -/
def packLanes {n : Nat} (lanes : Vector Byte n) : BitVec (8 * n) := BitVec.ofNat (8 * n) (packNat lanes.toList)

/-- The decoder: every value of `cmd_op` selects exactly one command (R68, R69, R72); `cmd_data` is ignored by the
commands of format Z (R61). -/
def decode (w : CommandWord) : Instr :=
  if w.op = 0b00#2 then .nop
  else if w.op = 0b01#2 then .init
  else if w.op = 0b10#2 then .block (unpackLanes Config.blockSize w.data)
  else .finish

/-- The mnemonic of a command (R68). -/
def Instr.mnemonic : Instr → String
  | .nop => "NOP"
  | .init => "INIT"
  | .block _ => "BLOCK"
  | .finish => "FINISH"

/-- The opcode of a command (R68). -/
def Instr.opcode : Instr → BitVec 2
  | .nop => 0b00#2
  | .init => 0b01#2
  | .block _ => 0b10#2
  | .finish => 0b11#2

/-- The operand of a command on `cmd_data` (R62). DESIGN CHOICE (assumption 5): a command of format Z ignores the operand (R61)
and the encoder drives zeros there. -/
def Instr.operand : Instr → BitVec (8 * Config.blockSize)
  | .block lanes => packLanes lanes
  | .nop | .init | .finish => 0

/-- The encoder, written from R61, R62 and R68. -/
def encode (i : Instr) : CommandWord := { op := i.opcode, data := i.operand }

/-- How many bits a whole command word has: 2 of `cmd_op` and 8N of `cmd_data` (R60). -/
abbrev Config.imageBits : Nat := 2 + 8 * Config.blockSize

/-- A command word as one number, bit 0 the least significant bit of `cmd_op`. -/
def CommandWord.image (w : CommandWord) : Nat := w.op.toNat + 4 * w.data.toNat

/-- The command word whose image is a number (its bits from `2 + 8N` up are no bits of the port). -/
def CommandWord.ofImage (w : Nat) : CommandWord :=
  { op := BitVec.ofNat 2 w, data := BitVec.ofNat (8 * Config.blockSize) (w / 4) }

/-- Why an image of bits is no command word. No opcode is ever rejected (R69, R72). -/
inductive DecodeError where
  /-- Fewer bits than the 2-bit opcode. -/
  | opcodeCutShort
  /-- A bit is set above the last bit of `cmd_data`, where the port has no signal (R60). -/
  | bitsBeyondPort
  deriving DecidableEq, Repr

/-- Decoding of an image of `nbits` bits; every bit the command has above them is 0. -/
def decodeImage (nbits w : Nat) : Except DecodeError Instr :=
  if nbits < 2 then .error .opcodeCutShort
  else if 2 ^ (8 * Config.blockSize) ≤ w % 2 ^ nbits / 4 then .error .bitsBeyondPort
  else .ok (decode (CommandWord.ofImage (w % 2 ^ nbits)))

/-- The instruction the decoder reads from an instruction whose bits are `w`, numbered as spec/opcode_table.json numbers them. -/
def decodeTableWord (nbits w : Nat) : Option Instr :=
  match decodeImage nbits w with
  | .ok i => some i
  | .error _ => none

end Sys2Proof
end

