-- ==== Sys2Proof/Machine/State.lean ====
section
/-! DEFINITION. The state of one instance of the block (R22 to R39), as plain data, and the state right after reset (R35, R151).
The datapath registers carry N as a parameter; the machine is N = Config.blockSize. The constant tables are no state (R15):
they are functions of Machine/Tables.lean. The outputs ERR_ANY and LA are combinational functions of the datapath (R28, R32):
Datapath.errAny and Datapath.lookahead of Machine/Flags.lean. -/

namespace Sys2Proof.Machine

/-- The datapath registers (R22 to R28), for a block of `n` bytes. -/
structure Datapath (n : Nat) where
  /-- PIN[1], the last byte of the previous block (R22). -/
  pin1 : Byte
  /-- PIN[2] (R22). -/
  pin2 : Byte
  /-- PIN[3] (R22). -/
  pin3 : Byte
  /-- PCC[1], the continuation count of the last lane of the previous block (R23). -/
  pcc1 : Count
  /-- PCC[2] (R23). -/
  pcc2 : Count
  /-- PCC[3] (R23). -/
  pcc3 : Count
  /-- EACC, the sticky error flags, bit `i` for lane `i` (R26, R27). -/
  eacc : BitVec n
  deriving DecidableEq, Repr

/-- The zero state of the datapath (R25, R104): as if three bytes 0x00 preceded, and no flag accumulated. -/
def Datapath.zero (n : Nat) : Datapath n :=
  { pin1 := 0x00#8, pin2 := 0x00#8, pin3 := 0x00#8, pcc1 := 0#2, pcc2 := 0#2, pcc3 := 0#2, eacc := 0#n }

/-- The three bits a FINISH command answers (R60, R63). -/
structure Response where
  /-- `rsp_err_any`. -/
  errAny : Bool
  /-- `rsp_la[1:0]`. -/
  la : BitVec 2
  deriving DecidableEq, Repr

/-- Where the sequencer stands in the pseudocode of VALIDATE (R114). DESIGN CHOICE (assumption 2): the spec gives the pseudocode
and no register for the place reached in it. -/
inductive Phase where
  /-- No VALIDATE is running. -/
  | idle
  /-- BASE, LEN and POS are written; INIT comes next (R114, R157). -/
  | start
  /-- Before the test of the loop condition `LEN - POS >= N` (R116). -/
  | loop
  /-- FINISH has answered these bits; the handoff of the tail comes next (R121 to R123). -/
  | handoff (response : Response)
  deriving DecidableEq, Repr

/-- What the outside presents to the block (R9, R60, R77). -/
inductive Request where
  /-- A command driven on the command port (R60). -/
  | command (word : CommandWord)
  /-- The host's VALIDATE with its arguments `data` and `len` (R114). -/
  | validate (data len : Nat)
  /-- Hardware reset (R77, R152). -/
  | reset
  deriving DecidableEq, Repr

/-- The input buffer's address space (R40, R41): address and byte pairs, addresses strictly rising. An address that is not
listed is not readable (assumption 4), so a VALIDATE whose buffer is not wholly listed breaks P1 and is refused (R130, R150). -/
abbrev Memory := List Host.Cell

/-- The canonical form of a memory: addresses strictly rise. An unlisted address reads as nothing, so no listed byte repeats
what an unlisted address reads as. -/
def Memory.wf : Memory → Bool
  | [] => true
  | [_] => true
  | c :: d :: rest => decide (c.1 < d.1) && Memory.wf (d :: rest)

/-- Why the block faults: for no reason. "The block raises no synchronous exception" and no command and no step of VALIDATE can
fault (R134, R141), so this type has no constructor. -/
inductive Fault where
  deriving DecidableEq, Repr

/-- Why the model gives a run no meaning. Each is safe: the model stops where the spec says "refuse" (R130, R150, D17, D23). -/
inductive Refusal where
  /-- Raised by no arm of exec now: the name a rejected arm would carry. Safe. -/
  | notModelled (mnemonic : String)
  /-- Raised by VALIDATE when N is below 4 (P4, R130, R164). Safe. Never at this hardware's N = 32. -/
  | blockTooNarrow
  /-- Raised by VALIDATE when LEN does not fit LEN_BITS (P3, R130). Safe. -/
  | lengthBeyondWidth
  /-- Raised by VALIDATE when BASE + LEN exceeds 2^ADDR_BITS (P3, R130). Safe. -/
  | addressBeyondWidth
  /-- Raised by VALIDATE when an address of the buffer is not readable (P1, R130). Safe. -/
  | bufferNotReadable
  /-- Raised by every further step of a running VALIDATE whose buffer the host has changed, even when it changed the bytes back
  (P2, R53, R130). Safe. -/
  | bufferChanged
  deriving DecidableEq, Repr

/-- The state of one instance, with its ports and the memory it reads. -/
structure State where
  /-- PIN, PCC and EACC (R22, R23, R26). -/
  dp : Datapath Config.blockSize
  /-- BASE, the address of the buffer (R30). -/
  base : Nat
  /-- LEN, the length of the buffer (R30). -/
  len : Nat
  /-- POS, the cursor (R29, R31). -/
  pos : Nat
  /-- The output TAIL_OFF of the last VALIDATE (R33, R121). -/
  tailOff : Nat
  /-- The output TAIL_LEN of the last VALIDATE (R33, R121). -/
  tailLen : Nat
  /-- The output VALID of the last VALIDATE (R33, R123). -/
  valid : Bool
  /-- The response of the last command: `some` after FINISH, `none` after any other (R63). DESIGN CHOICE (assumption 10): how
  long an answer stays visible. -/
  rsp : Option Response
  /-- Where the sequencer stands (R114); the model's own field. -/
  phase : Phase
  /-- While a VALIDATE runs, the bytes of the buffer when it began (P2, R53); the model's own field. DESIGN CHOICE
  (assumption 8). -/
  snapshot : List Byte
  /-- While a VALIDATE runs, whether the host has changed a byte of its buffer since it began, be the change undone or not (P2, R53);
  the model's own field. DESIGN CHOICE (assumption 8). -/
  disturbed : Bool
  /-- The memory the buffer lies in (R40, R41). -/
  mem : Memory
  /-- What the outside has presented and the block has not taken yet, oldest first (R9: "in the order issued"). DESIGN CHOICE
  (assumptions 1 and 3). -/
  port : List Request
  deriving DecidableEq, Repr

/-- The state right after reset (R35, R151): the zero state of the datapath, the sequencer registers and the stored outputs 0,
the sequencer idle, nothing presented, and nothing placed in memory. -/
def State.reset : State :=
  { dp := Datapath.zero Config.blockSize, base := 0, len := 0, pos := 0, tailOff := 0, tailLen := 0, valid := false,
    rsp := none, phase := .idle, snapshot := [], disturbed := false, mem := [], port := [] }

end Sys2Proof.Machine
end

