-- ==== Sys2Proof/Machine/Tables.lean ====
section
/-! DEFINITION. The four constant tables and the correction constants (R15 to R21, R71): constant functions, not state (R15). -/

namespace Sys2Proof.Machine

/-- The row of CCNT, entries 0 to F (R16). -/
def ccntRow : List Count := [0, 0, 0, 0, 0, 0, 0, 0, 0, 0, 0, 0, 1, 1, 2, 3]

/-- The row of RBASE, entries 0 to F (R17). -/
def rbaseRow : List Index := [0, 0, 0, 0, 0, 0, 0, 0, 0, 0, 0, 0, 8, 8, 8, 8]

/-- The row of RMIN, entries 0 to 15; 9 to 15 are the sentinels (R18, R19). -/
def rminRow : List Byte :=
  [0x00, 0x80, 0x80, 0x80, 0xA0, 0x80, 0x90, 0x80, 0xC2, 0x7F, 0x7F, 0x7F, 0x7F, 0x7F, 0x7F, 0x7F]

/-- The row of RMAX, entries 0 to 15; 9 to 15 are the sentinels (R18, R19). -/
def rmaxRow : List Byte :=
  [0x7F, 0xBF, 0xBF, 0xBF, 0xBF, 0x9F, 0xBF, 0x8F, 0xF4, 0x80, 0x80, 0x80, 0x80, 0x80, 0x80, 0x80]

/-- CCNT[i], the number of continuation bytes a lead byte of that high nibble requires (R16). -/
def ccnt (i : Index) : Count := ccntRow.getD i.toNat 0

/-- RBASE[i], the base range index (R17). -/
def rbase (i : Index) : Index := rbaseRow.getD i.toNat 0

/-- RMIN[i], the least byte of range index `i` (R18, R19). -/
def rmin (i : Index) : Byte := rminRow.getD i.toNat 0

/-- RMAX[i], the greatest byte of range index `i` (R18, R19). -/
def rmax (i : Index) : Byte := rmaxRow.getD i.toNat 0

/-- CORR(b): 2, 3, 3, 4 for the special lead bytes E0, ED, F0, F4, recognised by equality on all 8 bits, and 0 for every other
byte (R20, R67). -/
def corr (b : Byte) : Correction :=
  if b = 0xE0#8 then 2
  else if b = 0xED#8 then 3
  else if b = 0xF0#8 then 3
  else if b = 0xF4#8 then 4
  else 0

end Sys2Proof.Machine
end

