-- ==== Sys2Proof/Machine/Operands.lean ====
section
/-! DEFINITION. The operands of BLOCK: the lanes, the high nibble that indexes the tables, and the extended sequences that reach
three positions back into the previous block through PIN and PCC (R11, R44, R58, R64, R65, R80 to R82). All of it for any N. A lane or a position
no rule reads is given 0 (assumption 12, DEDUCED: never read). -/

namespace Sys2Proof.Machine

/-- The high nibble `b[7:4]`, the index into CCNT and RBASE (R58, R64). -/
def highNibble (b : Byte) : Index := b.extractLsb' 4 4

/-- `in[i]`, the byte at lane `i` (R11); no rule reads a lane outside 0 to N-1. -/
def lane {n : Nat} (v : Vector Byte n) (i : Nat) : Byte := v[i]?.getD 0

/-- S1a: `cc[i] <- CCNT[in[i][7:4]]` (R80). -/
def laneCount {n : Nat} (v : Vector Byte n) (i : Nat) : Count := ccnt (highNibble (lane v i))

/-- S1b: `rb[i] <- RBASE[in[i][7:4]]` (R81). -/
def laneBase {n : Nat} (v : Vector Byte n) (i : Nat) : Index := rbase (highNibble (lane v i))

/-- `xcc[j]` for -3 <= j <= N-1: the block's counts, and `xcc[-k] = PCC[k]` (R82). No rule reads it below -3. -/
def xcc {n : Nat} (d : Datapath n) (v : Vector Byte n) : Int → Count
  | .ofNat i => laneCount v i
  | .negSucc 0 => d.pcc1
  | .negSucc 1 => d.pcc2
  | .negSucc 2 => d.pcc3
  | .negSucc _ => 0

/-- `xin[j]` for -3 <= j <= N-1: the block's bytes, and `xin[-k] = PIN[k]` (R82). No rule reads it below -3. -/
def xin {n : Nat} (d : Datapath n) (v : Vector Byte n) : Int → Byte
  | .ofNat i => lane v i
  | .negSucc 0 => d.pin1
  | .negSucc 1 => d.pin2
  | .negSucc 2 => d.pin3
  | .negSucc _ => 0

end Sys2Proof.Machine
end

