-- ==== Sys2Proof/Machine/Flags.lean ====
section
/-! DEFINITION. Every flag computation: the range index of a lane (stages S2 and S3, R83 to R88), the range check that raises its
error flag (S4, R89, R90), the vector of flags that is OR-ed into EACC (S5, R92), and the two outputs ERR_ANY (R28, R107) and
LA (R32, R108). All of it for any N. -/

namespace Sys2Proof.Machine

/-- Unsigned saturating subtraction: `a - k` if `a >= k`, else 0 (R12, R94). -/
def satsub (a k : Count) : Count := if k ≤ a then a - k else 0

/-- S2a: `c1[i] <- xcc[i-1]` (R83). -/
def c1 {n : Nat} (d : Datapath n) (v : Vector Byte n) (i : Nat) : Count := xcc d v ((i : Int) - 1)

/-- S2b: `c2[i] <- satsub(xcc[i-2], 1)` (R84). -/
def c2 {n : Nat} (d : Datapath n) (v : Vector Byte n) (i : Nat) : Count := satsub (xcc d v ((i : Int) - 2)) 1

/-- S2c: `c3[i] <- satsub(xcc[i-3], 2)` (R85). -/
def c3 {n : Nat} (d : Datapath n) (v : Vector Byte n) (i : Nat) : Count := satsub (xcc d v ((i : Int) - 3)) 2

/-- The OR of a range base and the three contributions, zero-extended to 4 bits (R66, R86, R95). -/
def combine (rb : Index) (k1 k2 k3 : Count) : Index := rb ||| k1.setWidth 4 ||| k2.setWidth 4 ||| k3.setWidth 4

/-- S2d: the uncorrected range index `idx0[i]` (R86). -/
def index0 {n : Nat} (d : Datapath n) (v : Vector Byte n) (i : Nat) : Index :=
  combine (laneBase v i) (c1 d v i) (c2 d v i) (c3 d v i)

/-- S3, the correction of lane `i`: `k[i] <- CORR(xin[i-1])` (R87). -/
def laneCorr {n : Nat} (d : Datapath n) (v : Vector Byte n) (i : Nat) : Correction := corr (xin d v ((i : Int) - 1))

/-- S3: `idx[i] <- idx0[i] + zext_4(k[i])` (R87, R96). -/
def index {n : Nat} (d : Datapath n) (v : Vector Byte n) (i : Nat) : Index := index0 d v i + (laneCorr d v i).setWidth 4

/-- `s8(v)`, the signed reading of a byte (R10). -/
def s8 (b : Byte) : Int := if b.toNat < 128 then (b.toNat : Int) else (b.toNat : Int) - 256

/-- The test of R90 at range index `j`: the byte lies outside [RMIN[j], RMAX[j]], all three read as signed (R89, R90, R97). -/
def rangeFail (b : Byte) (j : Index) : Bool := s8 b < s8 (rmin j) || s8 (rmax j) < s8 b

/-- S4: the error flag `err[i]` of lane `i` (R89, R90). -/
def laneError {n : Nat} (d : Datapath n) (v : Vector Byte n) (i : Nat) : Bool := rangeFail (lane v i) (index d v i)

/-- The bit vector whose bit `i` is `f i`. -/
def bitsOf (f : Nat → Bool) : (n : Nat) → BitVec n
  | 0 => 0#0
  | n + 1 => BitVec.cons (f n) (bitsOf f n)

/-- The flags of all lanes of a block, bit `i` for lane `i` (R90, R92, R99). -/
def errorFlags {n : Nat} (d : Datapath n) (v : Vector Byte n) : BitVec n := bitsOf (laneError d v) n

/-- ERR_ANY, the OR-reduction of EACC (R28, R107). -/
def Datapath.errAny {n : Nat} (d : Datapath n) : Bool := d.eacc != 0#n

/-- The lead-byte test of the rewind: unsigned `b > 0xBF` (R108, D5). -/
def isLead (b : Byte) : Bool := 0xBF#8 < b

/-- LA, the lookahead: the distance from the end of the nearest lead byte among the last three bytes, or 0 (R108, R111). -/
def Datapath.lookahead {n : Nat} (d : Datapath n) : BitVec 2 :=
  if isLead d.pin1 then 1
  else if isLead d.pin2 then 2
  else if isLead d.pin3 then 3
  else 0

/-- What FINISH reports (R63, R106). -/
def Datapath.response {n : Nat} (d : Datapath n) : Response := { errAny := d.errAny, la := d.lookahead }

end Sys2Proof.Machine
end

