-- ==== Sys2Proof/Machine/Ops.lean ====
section
/-! DEFINITION. The named operations over memory and registers. The block only reads memory (R49, R51); the write operations are
the host's, by which a buffer comes to be in place before a VALIDATE (R156). The block has no exception to take or to return from
(R134, R141, R143), so no such operation stands here; hardware reset (R152) is the one event beside the commands. -/

namespace Sys2Proof.Machine

/-! ### Memory -/

/-- The byte at an address, `none` where nothing readable is placed (assumption 4). -/
def Memory.read : Memory → Nat → Option Byte
  | [], _ => none
  | c :: rest, a => if c.1 = a then some c.2 else Memory.read rest a

/-- The host places one byte (R156), keeping the canonical form. -/
def Memory.write : Memory → Nat → Byte → Memory
  | [], a, b => [(a, b)]
  | c :: rest, a, b =>
    if a < c.1 then (a, b) :: c :: rest
    else if a = c.1 then (a, b) :: rest
    else c :: Memory.write rest a b

/-- The host places bytes at rising addresses from `a` (R41: byte `data[j]` lives at `BASE + j`). -/
def Memory.writeBytes (m : Memory) (a : Nat) : List Byte → Memory
  | [] => m
  | b :: rest => Memory.writeBytes (m.write a b) (a + 1) rest

/-- `MemRead(addr, n)`: the bytes at `addr + j` for `j` from 0 to `n-1` (R12, R49), `none` when one of them is not readable.
No alignment is asked (R47). -/
def Memory.readBytes (m : Memory) (a : Nat) : Nat → Option (List Byte)
  | 0 => some []
  | n + 1 =>
    match m.read a with
    | none => none
    | some b =>
      match Memory.readBytes m (a + 1) n with
      | none => none
      | some rest => some (b :: rest)

/-- The block load: the N lanes `in[i]` of the block at an address, lane 0 the lowest address (R44, R65, R119). -/
def Memory.readBlock (m : Memory) (a n : Nat) : Option (Vector Byte n) :=
  match m.readBytes a n with
  | none => none
  | some bytes => some (Vector.ofFn fun i : Fin n => bytes.getD i 0)

/-! ### The datapath commands, for any N -/

/-- BLOCK on the datapath, stages S1 to S6 (R79 to R93): EACC takes the OR of the lanes' flags (R92), PIN and PCC take the last
three lanes (R93), all read from the state before. -/
def Datapath.block {n : Nat} (d : Datapath n) (v : Vector Byte n) : Datapath n :=
  { pin1 := lane v (n - 1), pin2 := lane v (n - 2), pin3 := lane v (n - 3),
    pcc1 := laneCount v (n - 1), pcc2 := laneCount v (n - 2), pcc3 := laneCount v (n - 3),
    eacc := d.eacc ||| errorFlags d v }

/-- INIT on the datapath: the zero state, whatever was there (R104). -/
def Datapath.init {n : Nat} (_ : Datapath n) : Datapath n := Datapath.zero n

/-! ### Updates of the state -/

/-- The state after a command that leaves datapath `d` and answers `r` (R63). -/
def State.afterCommand (s : State) (d : Datapath Config.blockSize) (r : Option Response) : State :=
  { s with dp := d, rsp := r }

/-- The state when the oldest request has been taken. -/
def State.withPort (s : State) (rest : List Request) : State := { s with port := rest }

/-- The sequencer moves on in the pseudocode of VALIDATE. -/
def State.withPhase (s : State) (p : Phase) : State := { s with phase := p }

/-- VALIDATE begins: `BASE <- data; LEN <- len; POS <- 0` (R114, R157); the buffer's bytes are kept for P2. -/
def State.begin (s : State) (data len : Nat) (buffer : List Byte) : State :=
  { s with base := data, len := len, pos := 0, snapshot := buffer, disturbed := false, phase := .start }

/-- `POS <- POS + N` (R31, R114). -/
def State.advance (s : State) : State := { s with pos := s.pos + Config.blockSize }

/-- VALIDATE ends: the handoff descriptor and the verdict are output (R33, R121, R123). -/
def State.conclude (s : State) (off len : Nat) (verdict : Bool) : State :=
  { s with tailOff := off, tailLen := len, valid := verdict, phase := .idle, snapshot := [], disturbed := false }

/-- Whether a memory holds in the buffer what it held when the running VALIDATE began (P2, R53). -/
def State.holdsBuffer (s : State) (m : Memory) : Bool := m.readBytes s.base s.len == some s.snapshot

/-- The host makes a change to memory. One that changes a byte of the buffer of a running VALIDATE breaks P2 for the rest of that
run, whatever the host does next (R53, R130, R150), so it is recorded. -/
def State.withMem (s : State) (m : Memory) : State :=
  { s with mem := m, disturbed := s.disturbed || (decide (s.phase ≠ .idle) && !s.holdsBuffer m) }

/-- Hardware reset: the datapath as INIT leaves it, and POS, LEN, BASE and the stored outputs 0 (R151, R152). The memory and what
the outside has presented are not the block's and stay. DESIGN CHOICE (assumption 11). -/
def State.hardwareReset (s : State) : State :=
  { s with dp := s.dp.init, base := 0, len := 0, pos := 0, tailOff := 0, tailLen := 0, valid := false,
           rsp := none, phase := .idle, snapshot := [], disturbed := false }

/-- Continue with the next state of an outcome; a stop stays a stop. -/
def andThen (o : Host.Outcome State Fault Refusal) (f : State → Host.Outcome State Fault Refusal) :
    Host.Outcome State Fault Refusal :=
  match o with
  | .next s => f s
  | .fault r => .fault r
  | .refused r => .refused r

end Sys2Proof.Machine
end

