-- ==== Sys2Proof/Machine/Classify.lean ====
section
/-! DEFINITION. The family of 40_block_classify.md: the commands NOP and BLOCK. -/

namespace Sys2Proof.Machine

/-- NOP: every register keeps its value and no response is produced (R78). -/
def execNop (s : State) : Host.Outcome State Fault Refusal := .next (s.afterCommand s.dp none)

/-- BLOCK: stages S1 to S6 on the datapath, no response (R79). -/
def execBlock (lanes : Vector Byte Config.blockSize) (s : State) : Host.Outcome State Fault Refusal :=
  .next (s.afterCommand (s.dp.block lanes) none)

end Sys2Proof.Machine
end

