-- ==== Sys2Proof/Machine/InitFinish.lean ====
section
/-! DEFINITION. The family of 41_init_finish.md: the commands INIT and FINISH. -/

namespace Sys2Proof.Machine

/-- INIT: the datapath's zero state, no response; BASE, LEN and POS stay (R104). -/
def execInit (s : State) : Host.Outcome State Fault Refusal := .next (s.afterCommand s.dp.init none)

/-- FINISH: answers ERR_ANY and LA and changes no register (R106 to R109). -/
def execFinish (s : State) : Host.Outcome State Fault Refusal := .next (s.afterCommand s.dp (some s.dp.response))

end Sys2Proof.Machine
end

