-- ==== Sys2Proof/Machine/Validate.lean ====
section
/-! DEFINITION. VALIDATE as R114 writes it, as one function for any N: the preconditions the host owes (R130), the block loop
(R116), the handoff (R121) and the verdict (R123). The stepping sequencer of the machine (Machine/Sequencer.lean) performs the same
operation command by command at N = 32. -/

namespace Sys2Proof.Machine

/-- The preconditions of VALIDATE that a run must meet or be refused (P4, P3, P1 of R130; R150): answers the bytes of the buffer. -/
def preconditions (n : Nat) (p : Params) (m : Memory) (data len : Nat) : Except Refusal (List Byte) :=
  if !blockSizeOk n then .error .blockTooNarrow
  else if !p.lenOk len then .error .lengthBeyondWidth
  else if !p.addrOk data len then .error .addressBeyondWidth
  else match m.readBytes data len with
    | none => .error .bufferNotReadable
    | some buffer => .ok buffer

/-- The block of N bytes at an offset of the buffer: `in[i] = data[POS + i]` (R44). -/
def blockAt (n : Nat) (buffer : List Byte) (pos : Nat) : Vector Byte n := Vector.ofFn fun i : Fin n => buffer.getD (pos + i) 0

/-- The loop of R114 and R116: while `LEN - POS >= N`, BLOCK on the next N bytes and `POS <- POS + N`, never leaving early (R118).
The first argument bounds the number of rounds. -/
def blockLoop (n : Nat) (buffer : List Byte) : Nat → Nat → Datapath n → Nat × Datapath n
  | 0, pos, d => (pos, d)
  | rounds + 1, pos, d =>
    if n ≤ buffer.length - pos then blockLoop n buffer rounds (pos + n) (d.block (blockAt n buffer pos)) else (pos, d)

/-- What VALIDATE leaves and outputs. -/
structure Verdict (n : Nat) where
  dp : Datapath n
  pos : Nat
  tailOff : Nat
  tailLen : Nat
  valid : Bool
  deriving DecidableEq, Repr

/-- The pseudocode of R114 from INIT on, over the bytes of the buffer, with the lookahead rule (of the cursor and the
datapath) as an argument. -/
def validateBy (n : Nat) (lookahead : Nat → Datapath n → Nat) (tail : List Byte → Bool) (buffer : List Byte) : Verdict n :=
  let (pos, d) := blockLoop n buffer (buffer.length + 1) 0 (Datapath.zero n)
  let la := lookahead pos d
  let off := pos - la
  let size := buffer.length - pos + la
  { dp := d, pos := pos, tailOff := off, tailLen := size, valid := !d.errAny && tail ((buffer.drop off).take size) }

/-- VALIDATE of R114 over the bytes of the buffer: the lookahead is LA of R108. -/
def validate (n : Nat) (tail : List Byte → Bool) (buffer : List Byte) : Verdict n :=
  validateBy n (fun _ d => d.lookahead.toNat) tail buffer

/-- The alternative lead test of R113, "not a continuation byte 80 to BF", under its guard that at least one block ran: an ASCII byte
stops the backward walk too. The model's LA is R108 (D5); this one is only compared with it. -/
def alternativeLookahead {n : Nat} (pos : Nat) (d : Datapath n) : Nat :=
  let stops := fun b : Byte => !(0x80#8 ≤ b && b ≤ 0xBF#8)
  if pos = 0 then 0
  else if stops d.pin1 then 1
  else if stops d.pin2 then 2
  else if stops d.pin3 then 3
  else 0

/-- The commands VALIDATE expands to on the command port (R77, R117): INIT, one BLOCK for each N consecutive bytes, FINISH. -/
def expansion (buffer : List Byte) : List Instr :=
  .init :: ((List.range (buffer.length / Config.blockSize)).map fun k =>
      Instr.block (blockAt Config.blockSize buffer (Config.blockSize * k)))
    ++ [.finish]

/-- VALIDATE as the host calls it, with the preconditions checked (R114, R130). -/
def validateAt (n : Nat) (p : Params) (m : Memory) (data len : Nat) : Except Refusal (Verdict n) :=
  match preconditions n p m data len with
  | .error r => .error r
  | .ok buffer => .ok (validate n p.tail buffer)

end Sys2Proof.Machine
end

