-- ==== Sys2Proof/Machine/Sequencer.lean ====
section
/-! DEFINITION. The sequencer (R70, R114 to R124) and the taking of requests: what one step of the machine does. Each datapath
command is one atomic step (R9, D7), and the sequencer issues its commands through the same exec as the command port. The stored
parameters are an argument (Params); Machine/Step.lean passes the hardware's. -/

namespace Sys2Proof.Machine

/-- P2: since the running VALIDATE began no byte of the buffer has changed, not even for a while, and it holds what it held then
(R53, R130). -/
def State.bufferIntact (s : State) : Bool := !s.disturbed && s.holdsBuffer s.mem

/-- VALIDATE begins: the preconditions are checked and BASE, LEN, POS written (R114, R130, R157). -/
def beginValidate (p : Params) (data len : Nat) (s : State) : Host.Outcome State Fault Refusal :=
  match preconditions Config.blockSize p s.mem data len with
  | .error r => .refused r
  | .ok buffer => .next (s.begin data len buffer)

/-- The sequencer issues INIT (R114). -/
def issueInit (s : State) : Host.Outcome State Fault Refusal :=
  andThen (exec .init s) fun t => .next (t.withPhase .loop)

/-- The body of the loop: the block load at BASE + POS, BLOCK, then `POS <- POS + N` (R114, R116, R119). -/
def issueBlock (s : State) : Host.Outcome State Fault Refusal :=
  match s.mem.readBlock (s.base + s.pos) Config.blockSize with
  | none => .refused .bufferNotReadable
  | some lanes => andThen (exec (.block lanes) s) fun t => .next t.advance

/-- The sequencer issues FINISH and keeps its answer `(e, la)` (R114). -/
def issueFinish (s : State) : Host.Outcome State Fault Refusal :=
  andThen (exec .finish s) fun t => .next (t.withPhase (.handoff (t.rsp.getD s.dp.response)))

/-- The handoff: TAIL_OFF and TAIL_LEN, the call of TAIL on the slice, and the verdict (R121 to R125). -/
def handoff (p : Params) (r : Response) (s : State) : Host.Outcome State Fault Refusal :=
  let off := s.pos - r.la.toNat
  let size := s.len - s.pos + r.la.toNat
  match s.mem.readBytes (s.base + off) size with
  | none => .refused .bufferNotReadable
  | some slice => .next (s.conclude off size (!r.errAny && p.tail slice))

/-- The oldest request is taken when no VALIDATE runs. With nothing presented the port shows the idle code NOP (R78, R166), so the
block holds its state (R149). DESIGN CHOICE (assumptions 1 and 3): requests wait while a VALIDATE runs. -/
def takeRequest (p : Params) (s : State) : Host.Outcome State Fault Refusal :=
  match s.port with
  | [] => exec .nop s
  | .command w :: rest => exec (decode w) (s.withPort rest)
  | .validate data len :: rest => beginValidate p data len (s.withPort rest)
  | .reset :: rest => .next (s.withPort rest).hardwareReset

/-- The next action: a request when the sequencer is idle, else the next line of the pseudocode of VALIDATE (R114). -/
def nextAction (p : Params) (s : State) : Host.Outcome State Fault Refusal :=
  match s.phase with
  | .idle => takeRequest p s
  | .start => issueInit s
  | .loop => if Config.blockSize ≤ s.len - s.pos then issueBlock s else issueFinish s
  | .handoff r => handoff p r s

/-- One step of the machine. A running VALIDATE whose buffer has changed since it began is refused (P2, R53, R130, R150). -/
def stepWith (p : Params) (s : State) : Host.Outcome State Fault Refusal :=
  if s.phase ≠ .idle ∧ s.bufferIntact = false then .refused .bufferChanged else nextAction p s

end Sys2Proof.Machine
end

