-- ==== Sys2Proof/Machine/Utf8.lean ====
section
/-! DEFINITION. Well-formedness of a byte string: the table of R127 and its scanner, and the per-byte error function E of R101.
Nothing in the datapath refers to this file; it gives the external tail validator its meaning (R126) and claims their words. -/

namespace Sys2Proof.Machine

/-- An inclusive range of byte values. -/
structure ByteRange where
  lo : Byte
  hi : Byte
  deriving DecidableEq, Repr

/-- Whether a byte lies in a range, ends included, as unsigned values (R127). -/
def ByteRange.holds (r : ByteRange) (b : Byte) : Bool := r.lo ≤ b && b ≤ r.hi

/-- The nine rows of the table of R127, each the byte ranges of one kind of sequence. -/
def sequenceRows : List (List ByteRange) :=
  [ [⟨0x00, 0x7F⟩],
    [⟨0xC2, 0xDF⟩, ⟨0x80, 0xBF⟩],
    [⟨0xE0, 0xE0⟩, ⟨0xA0, 0xBF⟩, ⟨0x80, 0xBF⟩],
    [⟨0xE1, 0xEC⟩, ⟨0x80, 0xBF⟩, ⟨0x80, 0xBF⟩],
    [⟨0xED, 0xED⟩, ⟨0x80, 0x9F⟩, ⟨0x80, 0xBF⟩],
    [⟨0xEE, 0xEF⟩, ⟨0x80, 0xBF⟩, ⟨0x80, 0xBF⟩],
    [⟨0xF0, 0xF0⟩, ⟨0x90, 0xBF⟩, ⟨0x80, 0xBF⟩, ⟨0x80, 0xBF⟩],
    [⟨0xF1, 0xF3⟩, ⟨0x80, 0xBF⟩, ⟨0x80, 0xBF⟩, ⟨0x80, 0xBF⟩],
    [⟨0xF4, 0xF4⟩, ⟨0x80, 0x8F⟩, ⟨0x80, 0xBF⟩, ⟨0x80, 0xBF⟩] ]

/-- Whether a byte string matches a row: as many bytes as the row has columns, each in its column's range. -/
def matchesRow : List ByteRange → List Byte → Bool
  | [], [] => true
  | r :: rs, b :: bs => r.holds b && matchesRow rs bs
  | [], _ :: _ => false
  | _ :: _, [] => false

/-- Whether a byte string is one sequence of the table (R127). -/
def isSequence (q : List Byte) : Bool := sequenceRows.any fun row => matchesRow row q

/-- WF as a scanner from left to right: the rows have different first bytes or lengths, so the shortest sequence that matches is
the only one (R127). WF of zero bytes holds (R128). -/
def wellFormedScan : List Byte → Bool
  | [] => true
  | a :: r1 =>
    if isSequence [a] then wellFormedScan r1
    else match r1 with
      | [] => false
      | b :: r2 =>
        if isSequence [a, b] then wellFormedScan r2
        else match r2 with
          | [] => false
          | c :: r3 =>
            if isSequence [a, b, c] then wellFormedScan r3
            else match r3 with
              | [] => false
              | d :: r4 => isSequence [a, b, c, d] && wellFormedScan r4

/-- The error flag of a byte `z` whose three predecessors are `w`, `x`, `y`, oldest first: the function E of R101, the same for
every N and every place of the block boundaries. -/
def byteError (w x y z : Byte) : Bool :=
  rangeFail z
    (combine (rbase (highNibble z)) (ccnt (highNibble y)) (satsub (ccnt (highNibble x)) 1) (satsub (ccnt (highNibble w)) 2)
      + (corr y).setWidth 4)

/-- `d[q]` of R101 shifted by three: the bytes of the buffer with three bytes 0x00 before them. -/
def withHistory (buffer : List Byte) : List Byte := 0x00#8 :: 0x00#8 :: 0x00#8 :: buffer

/-- The error flag of the byte at offset `p` of a buffer (R101). -/
def offsetError (buffer : List Byte) (p : Nat) : Bool :=
  let d := withHistory buffer
  byteError (d.getD p 0) (d.getD (p + 1) 0) (d.getD (p + 2) 0) (d.getD (p + 3) 0)

end Sys2Proof.Machine
end

