-- ==== Sys2Proof/Machine/Tail.lean ====
section
/-! DEFINITION. The external Scalar Tail Validator TAIL (R125 to R128) and the parameters the machine runs with. The sequencer
takes TAIL and the open widths as an argument (Params); this file gives the value Machine/Step.lean passes. -/

namespace Sys2Proof.Machine

/-- The machine's parameters: LEN_BITS and ADDR_BITS unbounded, as the spec lets a model take them (R8, D10, D11; DESIGN CHOICE,
assumption 6), and TAIL instantiated with the predicate WF (R125, D16; assumption 7). -/
def hardware : Params := { lenBits := none, addrBits := none, tail := wellFormedScan }

end Sys2Proof.Machine
end

