-- ==== Sys2Proof/Machine/Step.lean ====
section
/-! DEFINITION. One step of the machine with the hardware's parameters, and how the host places a command where the next step takes
it. -/

namespace Sys2Proof.Machine

/-- One step: one command of the port or one action of the sequencer (R9, R114). -/
def step (s : State) : Host.Outcome State Fault Refusal := stepWith hardware s

/-- The state with a command word driven on the command port so that the very next step runs it: the sequencer is idle and the word
is the oldest request. The word's bits from `nbits` up are 0. -/
def State.withFetchWord (s : State) (nbits w : Nat) : State :=
  (s.withPhase .idle).withPort (.command (CommandWord.ofImage (w % 2 ^ nbits)) :: s.port)

end Sys2Proof.Machine
end

