-- ==== Sys2Proof/Machine/HostPort.lean ====
section
/-! DEFINITION. What the outside can do between two steps (R9, R156): drive a command, ask for VALIDATE, reset, and place bytes in
memory. The host "cannot write any state of the validator" and has no cancellation (R9), so there is no other move. -/

namespace Sys2Proof.Machine

/-- A request joins the end of the port (R9: commands execute in the order issued). -/
def State.present (s : State) (r : Request) : State := s.withPort (s.port ++ [r])

/-- A driver drives a command on the command port (R60, R144: any driver, at any time). -/
def State.drive (s : State) (i : Instr) : State := s.present (.command (encode i))

/-- The host places bytes in memory (R156). During a VALIDATE this breaks P2 when it changes the buffer (R53). -/
def State.place (s : State) (addr : Nat) (bytes : List Byte) : State := s.withMem (s.mem.writeBytes addr bytes)

/-- Several placements one after another, with no step between them. -/
def State.placeAll (s : State) (places : List (Nat × List Byte)) : State := places.foldl (fun t w => t.place w.1 w.2) s

/-- The host puts a buffer in place and asks for its VALIDATE (R114, R156). -/
def State.submit (s : State) (addr : Nat) (buffer : List Byte) : State :=
  (s.place addr buffer).present (.validate addr buffer.length)

/-- Commands executed in order from a state, with the response of each (R63, R76); `none` at a stop. -/
def runCommands : List Instr → State → Option (List (Option Response) × State)
  | [], s => some ([], s)
  | i :: rest, s =>
    match exec i s with
    | .next t =>
      match runCommands rest t with
      | some (answers, u) => some (t.rsp :: answers, u)
      | none => none
    | .fault _ => none
    | .refused _ => none

end Sys2Proof.Machine
end

