-- ==== Sys2Proof/Machine/Asm.lean ====
section
/-! DEFINITION. The textual form of R76 and R77 (the spec's own, D19): one command a line, `;` starts a comment, bytes as two
hexadecimal digits, the response written after `->`. Text is a list of characters. -/

namespace Sys2Proof.Machine

/-- A hexadecimal digit's value. DESIGN CHOICE (assumption 9): both cases of the letters are read, capitals are written. -/
def hexValue (c : Char) : Option Nat :=
  if '0' ≤ c ∧ c ≤ '9' then some (c.toNat - 48)
  else if 'A' ≤ c ∧ c ≤ 'F' then some (c.toNat - 55)
  else if 'a' ≤ c ∧ c ≤ 'f' then some (c.toNat - 87)
  else none

/-- The hexadecimal digit of a value below 16. -/
def hexDigit (k : Nat) : Char := if k < 10 then Char.ofNat (48 + k) else Char.ofNat (55 + k)

/-- A two-digit hexadecimal byte (R10, R76). -/
def parseByte : List Char → Option Byte
  | [h, l] =>
    match hexValue h, hexValue l with
    | some a, some b => some (BitVec.ofNat 8 (16 * a + b))
    | _, _ => none
  | _ => none

/-- The two hexadecimal digits of a byte, the high nibble first. -/
def printByte (b : Byte) : List Char := [hexDigit (b.toNat / 16), hexDigit (b.toNat % 16)]

/-- A list of byte tokens, all of them read or none. -/
def parseBytes : List (List Char) → Option (List Byte)
  | [] => some []
  | t :: rest =>
    match parseByte t, parseBytes rest with
    | some b, some bs => some (b :: bs)
    | _, _ => none

/-- The characters before a `;` (R76). -/
def stripComment (text : List Char) : List Char := text.takeWhile (· ≠ ';')

/-- The tokens of a line, which spaces separate; the second argument is the token being read, last character first. -/
def tokensFrom : List Char → List Char → List (List Char)
  | [], [] => []
  | [], w => [w.reverse]
  | c :: rest, w =>
    if c = ' ' then (if w = [] then tokensFrom rest [] else w.reverse :: tokensFrom rest [])
    else tokensFrom rest (c :: w)

/-- The tokens of a line of text without its comment. -/
def tokens (text : List Char) : List (List Char) := tokensFrom (stripComment text) []

/-- The mark after which a response is written (R76). -/
def arrow : List Char := ['-', '>']

def kwNop : List Char := ['N', 'O', 'P']
def kwInit : List Char := ['I', 'N', 'I', 'T']
def kwBlock : List Char := ['B', 'L', 'O', 'C', 'K']
def kwFinish : List Char := ['F', 'I', 'N', 'I', 'S', 'H']
def kwReset : List Char := ['R', 'E', 'S', 'E', 'T']
def kwValidate : List Char := ['V', 'A', 'L', 'I', 'D', 'A', 'T', 'E']

/-- Why a text is no line of R76. -/
inductive LineError where
  /-- The first word is none of the six (R76, R77). -/
  | unknownCommand
  /-- Something stands after a command that takes no operand. -/
  | operandNotTaken
  /-- A token where a byte is expected is not two hexadecimal digits. -/
  | badByte
  deriving DecidableEq, Repr

/-- A command without operand. -/
def bare (l : Line) (rest : List (List Char)) : Except LineError (Option Line) :=
  if rest = [] then .ok (some l) else .error .operandNotTaken

/-- A command whose operands are bytes. -/
def withBytes (f : List Byte → Line) (rest : List (List Char)) : Except LineError (Option Line) :=
  match parseBytes rest with
  | some bytes => .ok (some (f bytes))
  | none => .error .badByte

/-- A line of text (R76, R77), `none` for a line that holds a comment only. What follows `->` after FINISH and VALIDATE is the
response noted there and no operand. Whether a BLOCK line has N bytes is Line.wellFormed. -/
def parseLine (text : List Char) : Except LineError (Option Line) :=
  match tokens text with
  | [] => .ok none
  | w :: rest =>
    if w = kwNop then bare .nop rest
    else if w = kwInit then bare .init rest
    else if w = kwBlock then withBytes .block rest
    else if w = kwFinish then bare .finish (rest.takeWhile (· ≠ arrow))
    else if w = kwReset then bare .reset rest
    else if w = kwValidate then withBytes .validate (rest.takeWhile (· ≠ arrow))
    else .error .unknownCommand

/-- The bytes of a line, each after a space. -/
def printBytes : List Byte → List Char
  | [] => []
  | b :: rest => ' ' :: printByte b ++ printBytes rest

/-- The text of a line (R76, R77). -/
def printLine : Line → List Char
  | .nop => kwNop
  | .init => kwInit
  | .block bytes => kwBlock ++ printBytes bytes
  | .finish => kwFinish
  | .reset => kwReset
  | .validate bytes => kwValidate ++ printBytes bytes

/-- The text of a FINISH with its response: `FINISH -> ERR_ANY=e LA=k` (R76). -/
def printFinish (r : Response) : List Char :=
  kwFinish ++ [' ', '-', '>', ' ', 'E', 'R', 'R', '_', 'A', 'N', 'Y', '=', if r.errAny then '1' else '0', ' ', 'L', 'A', '=',
    hexDigit r.la.toNat]

/-- The text of a VALIDATE with its result: `VALIDATE ... -> VALID=v TAIL_OFF=o TAIL_LEN=l` (R77). -/
def printValidate (bytes : List Byte) (valid : Bool) (off len : Nat) : List Char :=
  printLine (.validate bytes) ++ [' ', '-', '>', ' ', 'V', 'A', 'L', 'I', 'D', '=', if valid then '1' else '0']
    ++ [' ', 'T', 'A', 'I', 'L', '_', 'O', 'F', 'F', '='] ++ Nat.toDigits 10 off
    ++ [' ', 'T', 'A', 'I', 'L', '_', 'L', 'E', 'N', '='] ++ Nat.toDigits 10 len

/-- The command a well-formed command line stands for; `none` for a pseudo-instruction and for a BLOCK line of another length. -/
def lineInstr : Line → Option Instr
  | .nop => some .nop
  | .init => some .init
  | .block bytes =>
    if h : bytes.length = Config.blockSize then some (.block ⟨bytes.toArray, by simpa using h⟩) else none
  | .finish => some .finish
  | .reset => none
  | .validate _ => none

/-- What the driver and the host do with a line (R76, R77): a command is driven on the port, RESET and VALIDATE are requested, the
buffer of a VALIDATE placed at `addr` first. An ill-formed line is not presented. -/
def State.enterLine (s : State) (addr : Nat) (l : Line) : Option State :=
  match l with
  | .reset => some (s.present .reset)
  | .validate bytes => some (s.submit addr bytes)
  | .nop => some (s.drive .nop)
  | .init => some (s.drive .init)
  | .finish => some (s.drive .finish)
  | .block bytes => (lineInstr (.block bytes)).map s.drive

end Sys2Proof.Machine
end

