-- ==== Sys2Proof/Safety.lean ====
section
/-! DEFINITION. The words claims are made in: well-formed byte strings (R127), the tail validator's contract (R126), the carried
state's invariant (R24), the invariant every step keeps, and the processed region of a sequence of blocks. A safe run of this block is
one that is not refused: it never faults (R134). -/

namespace Sys2Proof.Machine

/-- WF: a concatenation of zero or more sequences, each matching one row of the table (R127). -/
def WF (s : List Byte) : Prop := ∃ seqs : List (List Byte), (∀ q ∈ seqs, isSequence q = true) ∧ s = seqs.flatten

/-- A sequence cut short: its first bytes and not all of them (R102). -/
def Incomplete (s : List Byte) : Prop := s ≠ [] ∧ ∃ more : List Byte, more ≠ [] ∧ isSequence (s ++ more) = true

/-- P5, the contract of TAIL: it answers 1 exactly on the well-formed strings (R126, R130). -/
def TailContract (tail : List Byte → Bool) : Prop := ∀ s : List Byte, tail s = true ↔ WF s

/-- The correctness R132 asks of VALIDATE at a block size and with a tail validator: VALID is 1 exactly on the well-formed buffers
(R129), the document's "Agreement property". -/
def DecidesWellFormed (n : Nat) (tail : List Byte → Bool) : Prop :=
  ∀ buffer : List Byte, (validate n tail buffer).valid = true ↔ WF buffer

/-- `PCC[k] = CCNT[PIN[k][7:4]]` for k = 1, 2, 3 (R24). -/
def Datapath.Classified {n : Nat} (d : Datapath n) : Prop :=
  d.pcc1 = ccnt (highNibble d.pin1) ∧ d.pcc2 = ccnt (highNibble d.pin2) ∧ d.pcc3 = ccnt (highNibble d.pin3)

/-- The datapath after blocks, in order, from the zero state (R104, R159). -/
def afterBlocks {n : Nat} (blocks : List (Vector Byte n)) : Datapath n := blocks.foldl Datapath.block (Datapath.zero n)

/-- The processed region: the bytes of the blocks, in buffer order (R14). -/
def region {n : Nat} (blocks : List (Vector Byte n)) : List Byte := (blocks.map Vector.toList).flatten

/-- A vector of lanes moved toward higher lane numbers with carry-in: the vacated lanes take `carry`, oldest first, and as many
elements fall off the top (R100). -/
def shiftIn {α : Type} (carry row : List α) : List α := (carry ++ row).take row.length

/-- What holds of the place the sequencer has reached (R31, R110, R114, R116). -/
def State.PhaseInv (s : State) : Prop :=
  match s.phase with
  | .idle => True
  | .start => s.pos = 0
  | .loop => s.pos = 0 → s.dp = Datapath.zero Config.blockSize
  | .handoff r => r = s.dp.response ∧ s.len - s.pos < Config.blockSize ∧ (s.pos = 0 → s.dp = Datapath.zero Config.blockSize)

/-- The invariant of the machine: the memory is in canonical form, PCC agrees with PIN (R24), POS is a multiple of N and at most LEN
(R31, R116), the sequencer's place is consistent, and the watch over the buffer of a running VALIDATE has missed no change (P2, R53). -/
structure State.Inv (s : State) : Prop where
  mem : s.mem.wf = true
  classified : s.dp.Classified
  aligned : s.pos % Config.blockSize = 0
  bounded : s.pos ≤ s.len
  phase : s.PhaseInv
  watched : s.phase ≠ .idle → s.disturbed = false → s.holdsBuffer s.mem = true

/-- The machine with other parameters than the hardware's (R8, R125). -/
def coreWith (p : Params) : Host.Core :=
  { State := State, Fault := Fault, Refusal := Refusal, step := stepWith p, reset := State.reset }

/-- A host's VALIDATE of a buffer that lies in memory, at the head of the port of an idle machine (R114, R130). -/
structure State.Asks (s : State) (p : Params) (data : Nat) (buffer : List Byte) (rest : List Request) : Prop where
  idle : s.phase = .idle
  request : s.port = .validate data buffer.length :: rest
  readable : s.mem.readBytes data buffer.length = some buffer
  lenFits : p.lenOk buffer.length = true
  addrFits : p.addrOk data buffer.length = true

/-- Two datapaths that agree on the carried state and on whether any flag is set (R27). -/
def Datapath.SameButLanes {n : Nat} (d e : Datapath n) : Prop :=
  d.pin1 = e.pin1 ∧ d.pin2 = e.pin2 ∧ d.pin3 = e.pin3 ∧ d.pcc1 = e.pcc1 ∧ d.pcc2 = e.pcc2 ∧ d.pcc3 = e.pcc3 ∧ d.errAny = e.errAny

end Sys2Proof.Machine
end

