-- ==== Sys2Proof/Certificates/Slice0/Obligations.lean ====
section
/-! DEFINITION. The statements for the provers, from the numbered rules of spec/. Statements about the datapath hold for every block
size, or for every block size from 4 where the rule asks it (R5, R164). -/

open Sys2Proof Sys2Proof.Machine

/-! ### Reset and the constant tables -/

/-- R151, R35: the state after reset. The phase, the response and the snapshot are the model's own fields and not mentioned. -/
def Obligations.ResetLeavesEveryRegisterZero : Prop :=
  State.reset.dp.pin1 = 0x00#8 ∧ State.reset.dp.pin2 = 0x00#8 ∧ State.reset.dp.pin3 = 0x00#8 ∧
  State.reset.dp.pcc1 = 0#2 ∧ State.reset.dp.pcc2 = 0#2 ∧ State.reset.dp.pcc3 = 0#2 ∧
  (∀ i < Config.blockSize, State.reset.dp.eacc.getLsbD i = false) ∧
  State.reset.pos = 0 ∧ State.reset.len = 0 ∧ State.reset.base = 0 ∧
  State.reset.dp.errAny = false ∧ State.reset.dp.lookahead = 0#2 ∧
  State.reset.tailOff = 0 ∧ State.reset.tailLen = 0 ∧ State.reset.valid = false

/-- R16 and R17: CCNT and RBASE entry by entry. -/
def Obligations.CountAndBaseTables : Prop :=
  (∀ i : Index, i < 0xC#4 → ccnt i = 0 ∧ rbase i = 0) ∧
  ccnt 0xC#4 = 1 ∧ ccnt 0xD#4 = 1 ∧ ccnt 0xE#4 = 2 ∧ ccnt 0xF#4 = 3 ∧
  (∀ i : Index, 0xC#4 ≤ i → rbase i = 8)

/-- R19: the complete tables, and the sentinel test is false for every byte. -/
def Obligations.RangeTablesAndSentinels : Prop :=
  (List.range 16).map (fun i => rmin (BitVec.ofNat 4 i)) =
    [0x00, 0x80, 0x80, 0x80, 0xA0, 0x80, 0x90, 0x80, 0xC2, 0x7F, 0x7F, 0x7F, 0x7F, 0x7F, 0x7F, 0x7F] ∧
  (List.range 16).map (fun i => rmax (BitVec.ofNat 4 i)) =
    [0x7F, 0xBF, 0xBF, 0xBF, 0xBF, 0x9F, 0xBF, 0x8F, 0xF4, 0x80, 0x80, 0x80, 0x80, 0x80, 0x80, 0x80] ∧
  s8 0x7F#8 = 127 ∧ s8 0x80#8 = -128 ∧
  (∀ (i : Index) (b : Byte), 9#4 ≤ i → rangeFail b i = true)

/-- R20 and R67: the four correction constants, recognised by the whole byte. -/
def Obligations.CorrectionConstants : Prop :=
  corr 0xE0#8 = 2 ∧ corr 0xED#8 = 3 ∧ corr 0xF0#8 = 3 ∧ corr 0xF4#8 = 4 ∧
  (∀ b : Byte, corr b ≠ 0 ↔ b = 0xE0#8 ∨ b = 0xED#8 ∨ b = 0xF0#8 ∨ b = 0xF4#8)

/-- R21: the table invariants. -/
def Obligations.TableInvariants : Prop :=
  (∀ i : Index, (ccnt i).toNat ≤ 3 ∧ (rbase i = 0 ∨ rbase i = 8)) ∧
  (∀ i : Index, i ≤ 8#4 → rmin i ≤ rmax i ∧ s8 (rmin i) ≤ s8 (rmax i) ∧ (rmin i < 0x80#8 ↔ rmax i < 0x80#8)) ∧
  (∀ i : Index, 9#4 ≤ i → s8 (rmax i) < s8 (rmin i))

/-- R94: saturating subtraction of 1 and 2. -/
def Obligations.SaturatingSubtraction : Prop :=
  ∀ a k : Count, k = 1 ∨ k = 2 → (satsub a k).toNat = a.toNat - k.toNat

/-! ### The command port -/

/-- R61, R69, R72: every opcode selects exactly one command, whatever stands on `cmd_data`, and the opcode table says the same. -/
def Obligations.DecodingSelectsOneCommand : Prop :=
  (∀ data, decode { op := 0b00#2, data := data } = .nop) ∧
  (∀ data, decode { op := 0b01#2, data := data } = .init) ∧
  (∀ data, ∃ lanes, decode { op := 0b10#2, data := data } = .block lanes) ∧
  (∀ data, decode { op := 0b11#2, data := data } = .finish) ∧
  (∀ w : CommandWord, (opcodeTable.filter fun r => r.selects w.op).map OpcodeRow.mnemonic = [(decode w).mnemonic])

/-- R62: lane `i` of BLOCK stands at bits `8i+7 : 8i` of `cmd_data`. -/
def Obligations.BlockOperandLanes : Prop :=
  ∀ data : BitVec (8 * Config.blockSize), ∃ lanes, decode { op := 0b10#2, data := data } = .block lanes ∧
    ∀ i < Config.blockSize, ∀ j < 8, (lane lanes i).getLsbD j = data.getLsbD (8 * i + j)

/-- Decoding an encoded command gives it back, as port signals and as an image of the opcode table's numbering (the image is the
model's reading, assumption 5), and packing loses no bit at any block size. -/
def Obligations.DecodeOfEncode : Prop :=
  (∀ i : Instr, decode (encode i) = i ∧ decodeTableWord Config.imageBits (encode i).image = some i) ∧
  (∀ (n : Nat) (lanes : Vector Byte n), unpackLanes n (packLanes lanes) = lanes)

/-- Encoding a decoded command gives back the opcode, and for BLOCK the whole word. -/
def Obligations.EncodeOfDecode : Prop :=
  ∀ w : CommandWord, (encode (decode w)).op = w.op ∧ (w.op = 0b10#2 → encode (decode w) = w)

/-- Words written out from R61, R62 and R68 decode to what they stand for (the BLOCK word is that of program P5 of
95_test_vectors.md). That decodeTableWord reads cmd_op from bits 1 and 0 of one number is the model's reading (DEDUCED, assumption 5). -/
def Obligations.WrittenWordsDecode : Prop :=
  decodeTableWord 8 0b00 = some .nop ∧ decodeTableWord 8 0b01 = some .init ∧ decodeTableWord 8 0b11 = some .finish ∧
  decode { op := 0b10#2, data := 0xE241414141414141414141414141414141414141414141414141414141414141#256 } =
    .block ((Vector.replicate 32 0x41#8).set 31 0xE2#8)

/-- One step of an idle machine runs the command the port shows: the oldest command word's decoded instruction, or the idle code NOP
when nothing is presented, or the instruction of a word placed by withFetchWord. The queue of requests is the model's choice (assumption 1). -/
def Obligations.StepRunsDecodedCommand : Prop :=
  (∀ (p : Params) (s : State) (w : CommandWord) (rest : List Request), s.phase = .idle → s.port = .command w :: rest →
    stepWith p s = exec (decode w) (s.withPort rest)) ∧
  (∀ (p : Params) (s : State), s.phase = .idle → s.port = [] → stepWith p s = exec .nop s) ∧
  (∀ (s : State) (nbits w : Nat) (i : Instr), decodeTableWord nbits w = some i →
    step (s.withFetchWord nbits w) = exec i (s.withPhase .idle)) ∧
  (∀ s : State, step s = stepWith hardware s)

/-- A command a driver presents to an idle machine with an empty port runs at the next step (the queue is the model's choice,
assumption 1). -/
def Obligations.DrivenCommandRuns : Prop :=
  ∀ (p : Params) (s : State) (i : Instr), s.phase = .idle → s.port = [] → stepWith p (s.drive i) = exec i s

/-- R149: with nothing presented an idle block holds its state, for any number of steps. That the port then shows NOP, and that an
earlier response is cleared, are the model's choices (assumptions 1 and 10). -/
def Obligations.IdleHoldsState : Prop :=
  ∀ (p : Params) (k : Nat) (s : State), s.phase = .idle → s.port = [] →
    (coreWith p).run (k + 1) s = .next { s with rsp := none }

/-- R63 and R144: every command sequence is accepted from every state, one answer a command, and only FINISH produces a response,
which is ERR_ANY and LA. That another command clears the answer (`rsp = none`) is the model's choice (DESIGN CHOICE, assumption 10). -/
def Obligations.OnlyFinishResponds : Prop :=
  (∀ (commands : List Instr) (s : State), ∃ answers t, runCommands commands s = some (answers, t) ∧
    answers.length = commands.length ∧
    ∀ k, (h : k < commands.length) → (answers.getD k none = none ↔ commands[k] ≠ .finish)) ∧
  (∀ (i : Instr) (s t : State), exec i s = .next t →
    (i = .finish → t.rsp = some { errAny := s.dp.errAny, la := s.dp.lookahead }) ∧ (i ≠ .finish → t.rsp = none))

/-- R134: nothing faults, and no command is ever turned away. -/
def Obligations.NothingFaults : Prop :=
  (∀ (p : Params) (s : State) (f : Fault), stepWith p s ≠ .fault f) ∧
  (∀ (i : Instr) (s : State), ∃ t, exec i s = .next t)

/-! ### The four commands -/

/-- R78: NOP changes no register and produces no response. That an earlier response is then cleared (`rsp := none`) is the model's
choice (DESIGN CHOICE, assumption 10). -/
def Obligations.NopChangesNothing : Prop :=
  ∀ s : State, exec .nop s = .next { s with rsp := none }

/-- R104: INIT leaves the zero state in PIN, PCC and EACC, keeps everything else, and is idempotent. That an
earlier response is cleared (`rsp := none`) is the model's choice (DESIGN CHOICE, assumption 10). -/
def Obligations.InitZeroesTheDatapath : Prop :=
  ∀ s : State, ∃ t, exec .init s = .next t ∧
    t = { s with dp := { pin1 := 0x00#8, pin2 := 0x00#8, pin3 := 0x00#8, pcc1 := 0#2, pcc2 := 0#2, pcc3 := 0#2, eacc := 0 },
                 rsp := none } ∧
    t.dp.errAny = false ∧ t.dp.lookahead = 0#2 ∧ exec .init t = .next t

/-- R80 to R90, R92, R93: BLOCK ORs into bit `i` of EACC the outcome of the signed range test of lane `i` at the index
`(rb | c1 | c2 | c3) + CORR`, takes PIN and PCC from the last three lanes, and changes nothing else. That an earlier
response is cleared (`rsp := none`) is the model's choice (DESIGN CHOICE, assumption 10). -/
def Obligations.BlockResult : Prop :=
  ∀ (lanes : Vector Byte Config.blockSize) (s : State), ∃ flags : BitVec Config.blockSize,
    exec (.block lanes) s = .next { s with
      dp := { pin1 := lane lanes 31, pin2 := lane lanes 30, pin3 := lane lanes 29,
              pcc1 := ccnt (highNibble (lane lanes 31)), pcc2 := ccnt (highNibble (lane lanes 30)),
              pcc3 := ccnt (highNibble (lane lanes 29)), eacc := flags },
      rsp := none } ∧
    ∀ i < Config.blockSize,
      let idx := (rbase (highNibble (lane lanes i)) ||| (xcc s.dp lanes ((i : Int) - 1)).setWidth 4
          ||| (satsub (xcc s.dp lanes ((i : Int) - 2)) 1).setWidth 4 ||| (satsub (xcc s.dp lanes ((i : Int) - 3)) 2).setWidth 4)
        + (corr (xin s.dp lanes ((i : Int) - 1))).setWidth 4
      (flags.getLsbD i = true ↔ s.dp.eacc.getLsbD i = true ∨ s8 (lane lanes i) < s8 (rmin idx) ∨ s8 (lane lanes i) > s8 (rmax idx))

/-- R107, R108, R109: FINISH answers the OR of EACC and the distance of the nearest lead byte, changes no state, and a BLOCK after it
continues as if it had not been executed. -/
def Obligations.FinishReports : Prop :=
  ∀ s : State, ∃ (e : Bool) (la : BitVec 2), exec .finish s = .next { s with rsp := some { errAny := e, la := la } } ∧
    (e = true ↔ ∃ i < Config.blockSize, s.dp.eacc.getLsbD i = true) ∧
    (s.dp.pin1 > 0xBF#8 → la = 1) ∧
    (s.dp.pin1 ≤ 0xBF#8 → s.dp.pin2 > 0xBF#8 → la = 2) ∧
    (s.dp.pin1 ≤ 0xBF#8 → s.dp.pin2 ≤ 0xBF#8 → s.dp.pin3 > 0xBF#8 → la = 3) ∧
    (s.dp.pin1 ≤ 0xBF#8 → s.dp.pin2 ≤ 0xBF#8 → s.dp.pin3 ≤ 0xBF#8 → la = 0) ∧
    (∀ lanes, exec (.block lanes) { s with rsp := some { errAny := e, la := la } } = exec (.block lanes) s)

/-- R110: with the zero carried state the lookahead is 0, at every block size. -/
def Obligations.NoRewindFromZeroState : Prop :=
  ∀ n : Nat, (Datapath.zero n).lookahead = 0#2 ∧ (Datapath.zero n).errAny = false

/-- R34: the frame of the four commands. Memory, the sequencer's registers and its outputs are never changed; PIN, PCC and EACC are
changed by INIT and BLOCK only. -/
def Obligations.CommandFrame : Prop :=
  ∀ (i : Instr) (s t : State), exec i s = .next t →
    (∀ a : Nat, t.mem.read a = s.mem.read a) ∧ t.base = s.base ∧ t.len = s.len ∧ t.pos = s.pos ∧ t.tailOff = s.tailOff ∧
    t.tailLen = s.tailLen ∧ t.valid = s.valid ∧ t.phase = s.phase ∧ t.snapshot = s.snapshot ∧ t.port = s.port ∧
    (i = .nop ∨ i = .finish → t.dp = s.dp)

/-- R27: only INIT clears a bit of EACC; BLOCK never clears one; NOP and FINISH do not write it. -/
def Obligations.AccumulatorIsSticky : Prop :=
  ∀ (i : Instr) (s t : State), exec i s = .next t →
    (i ≠ .init → ∀ k < Config.blockSize, s.dp.eacc.getLsbD k = true → t.dp.eacc.getLsbD k = true) ∧
    (i = .nop ∨ i = .finish → t.dp.eacc = s.dp.eacc) ∧ (i = .init → t.dp.eacc = 0)

/-- R27, D13: whatever commands follow, the answers depend on EACC only through ERR_ANY. -/
def Obligations.OneStickyBitSuffices : Prop :=
  ∀ (commands : List Instr) (s t : State), s.dp.SameButLanes t.dp →
    ∃ answers u v, runCommands commands s = some (answers, u) ∧ runCommands commands t = some (answers, v) ∧
      u.dp.SameButLanes v.dp

/-- R142: a flag already set changes neither the flags BLOCK computes nor the carried state it leaves. -/
def Obligations.ProcessingContinuesAfterError : Prop :=
  ∀ (n : Nat) (d : Datapath n) (acc : BitVec n) (lanes : Vector Byte n),
    errorFlags { d with eacc := acc } lanes = errorFlags d lanes ∧
    ({ d with eacc := acc }.block lanes) = { d.block lanes with eacc := acc ||| errorFlags d lanes } ∧
    ({ d with eacc := acc }.block lanes).lookahead = (d.block lanes).lookahead

/-! ### Inside BLOCK -/

/-- R82: the extended sequences reach three positions back through PCC and PIN, and BLOCK's flags use PIN[1]
only. -/
def Obligations.ExtendedSequences : Prop :=
  ∀ (n : Nat) (d : Datapath n) (v : Vector Byte n),
    (∀ j < n, xcc d v (j : Int) = ccnt (highNibble (lane v j)) ∧ xin d v (j : Int) = lane v j) ∧
    xcc d v (-1) = d.pcc1 ∧ xcc d v (-2) = d.pcc2 ∧ xcc d v (-3) = d.pcc3 ∧
    xin d v (-1) = d.pin1 ∧ xin d v (-2) = d.pin2 ∧ xin d v (-3) = d.pin3 ∧
    (∀ a b : Byte, errorFlags { d with pin2 := a, pin3 := b } v = errorFlags d v)

/-- R83, R84, R85: what the three contributions mean, in terms of the bytes one, two and three before the lane, on every carried
state that meets R24. -/
def Obligations.ContributionsOfLeadBytes : Prop :=
  (∀ (n : Nat) (d : Datapath n) (v : Vector Byte n) (i : Nat), c1 d v i = xcc d v ((i : Int) - 1) ∧
    c2 d v i = satsub (xcc d v ((i : Int) - 2)) 1 ∧ c3 d v i = satsub (xcc d v ((i : Int) - 3)) 2) ∧
  ∀ (n : Nat) (d : Datapath n) (v : Vector Byte n) (i : Nat), d.Classified → i < n →
    (let y := xin d v ((i : Int) - 1)
     c1 d v i = if y < 0xC0#8 then 0 else if y < 0xE0#8 then 1 else if y < 0xF0#8 then 2 else 3) ∧
    (let x := xin d v ((i : Int) - 2)
     c2 d v i = if x < 0xE0#8 then 0 else if x < 0xF0#8 then 1 else 2) ∧
    (let w := xin d v ((i : Int) - 3)
     c3 d v i = if w < 0xF0#8 then 0 else 1)

/-- R100: the per-lane form is the shift with carry-in, and saturating subtraction before or after the shift gives the same lanes. -/
def Obligations.ShiftWithCarryIn : Prop :=
  ∀ (n : Nat) (d : Datapath n) (v : Vector Byte n),
    let counts := (List.range n).map (laneCount v)
    (List.range n).map (c1 d v) = shiftIn [d.pcc1] counts ∧
    (List.range n).map (c2 d v) = shiftIn [satsub d.pcc2 1, satsub d.pcc1 1] (counts.map fun c => satsub c 1) ∧
    (List.range n).map (c2 d v) = (shiftIn [d.pcc2, d.pcc1] counts).map (fun c => satsub c 1) ∧
    (List.range n).map (c3 d v) =
      shiftIn [satsub d.pcc3 2, satsub d.pcc2 2, satsub d.pcc1 2] (counts.map fun c => satsub c 2) ∧
    (List.range n).map (c3 d v) = (shiftIn [d.pcc3, d.pcc2, d.pcc1] counts).map (fun c => satsub c 2) ∧
    (List.range n).map (fun i => xin d v ((i : Int) - 1)) = shiftIn [d.pin1] v.toList

/-- R88: the index never leaves 0 to 15, its half tells a lead byte, and the 4-bit addition never carries out, for any content of PIN
and PCC. -/
def Obligations.IndexRange : Prop :=
  ∀ (n : Nat) (d : Datapath n) (v : Vector Byte n) (i : Nat), i < n →
    (lane v i < 0xC0#8 → (index d v i).toNat ≤ 7) ∧
    (0xC0#8 ≤ lane v i → 8 ≤ (index d v i).toNat ∧ (index d v i).toNat ≤ 15) ∧
    (index d v i).toNat = (index0 d v i).toNat + (laneCorr d v i).toNat

/-- R91: the equivalent forms of the range test (a), (b), (c) and its consequences by class of byte (d) to (g). The last clause of (g)
needs R24: a correction without a count in front of a lead byte occurs in no state a run reaches. -/
def Obligations.RangeTestForms : Prop :=
  (∀ (b : Byte) (j : Index), j ≤ 8#4 → (rangeFail b j = true ↔ b < rmin j ∨ rmax j < b)) ∧
  (∀ (b : Byte) (j : Index), 9#4 ≤ j → rangeFail b j = true) ∧
  (∀ (b : Byte) (j : Index), (rangeFail b j = true ∧ ¬(b < rmin j ∨ rmax j < b)) ↔ (9#4 ≤ j ∧ (b = 0x7F#8 ∨ b = 0x80#8))) ∧
  (∀ (n : Nat) (d : Datapath n) (v : Vector Byte n) (i : Nat), i < n →
    (laneError d v i = true ↔ lane v i < rmin (index d v i) ∨ rmax (index d v i) < lane v i) ∧
    (lane v i = 0xC0#8 ∨ lane v i = 0xC1#8 ∨ 0xF5#8 ≤ lane v i → laneError d v i = true) ∧
    (lane v i < 0x80#8 → (laneError d v i = true ↔ index d v i ≠ 0)) ∧
    (0x80#8 ≤ lane v i → lane v i < 0xC0#8 →
      (laneError d v i = true ↔ index d v i = 0 ∨ lane v i < rmin (index d v i) ∨ rmax (index d v i) < lane v i)) ∧
    (0xC2#8 ≤ lane v i → lane v i ≤ 0xF4#8 →
      (laneError d v i = true ↔ index d v i ≠ 8) ∧
      (d.Classified → (laneError d v i = true ↔ c1 d v i ≠ 0 ∨ c2 d v i ≠ 0 ∨ c3 d v i ≠ 0))))

/-- R136: the lane condition of each cause of malformation raises the lane's flag; a sequence cut by the end of the processed region
raises none (its lanes are those of its present bytes, here the last two bytes of a block from the zero state). -/
def Obligations.CausesOfMalformation : Prop :=
  (∀ (n : Nat) (d : Datapath n) (v : Vector Byte n) (i : Nat), i < n →
    (index d v i = 8#4 → lane v i < 0xC2#8 ∨ 0xF4#8 < lane v i → laneError d v i = true) ∧
    (index d v i = 0#4 → 0x80#8 ≤ lane v i → laneError d v i = true) ∧
    (1#4 ≤ index d v i → index d v i ≤ 7#4 → lane v i < 0x80#8 → laneError d v i = true) ∧
    (9#4 ≤ index d v i → laneError d v i = true) ∧
    (index d v i = 4#4 → lane v i < 0xA0#8 → laneError d v i = true) ∧
    (index d v i = 6#4 → lane v i < 0x90#8 → laneError d v i = true) ∧
    (index d v i = 5#4 → 0x9F#8 < lane v i → laneError d v i = true) ∧
    (index d v i = 7#4 → 0x8F#8 < lane v i → laneError d v i = true)) ∧
  ((Datapath.zero 4).block #v[0x41#8, 0x41#8, 0xE2#8, 0x82#8]).errAny = false

/-! ### Invariants -/

/-- R24: PCC agrees with PIN after reset and after INIT, and every command keeps it. -/
def Obligations.CountsAgreeWithBytes : Prop :=
  State.reset.dp.Classified ∧
  (∀ s t : State, exec .init s = .next t → t.dp.Classified) ∧
  (∀ (i : Instr) (s t : State), s.dp.Classified → exec i s = .next t → t.dp.Classified)

/-- The invariant holds after reset. -/
def Obligations.InvariantAtReset : Prop := State.reset.Inv

/-- Every step keeps the invariant: the memory's canonical form, R24, R31, the sequencer's place and the watch over the buffer (the
last two are the model's own fields, assumptions 2 and 8). -/
def Obligations.EveryStepKeepsInvariant : Prop :=
  ∀ (p : Params) (s t : State), s.Inv → stepWith p s = .next t → t.Inv

/-- What the outside can do between steps keeps the invariant. -/
def Obligations.HostMovesKeepInvariant : Prop :=
  ∀ (s : State) (addr : Nat) (bytes : List Byte) (r : Request) (nbits w : Nat), s.Inv →
    (s.place addr bytes).Inv ∧ (s.present r).Inv ∧ (s.submit addr bytes).Inv ∧ s.hardwareReset.Inv ∧ (s.withFetchWord nbits w).Inv

/-- R51 and R120: no step writes memory. -/
def Obligations.NoStepWritesMemory : Prop :=
  ∀ (p : Params) (s t : State), stepWith p s = .next t → t.mem = s.mem ∧ ∀ a : Nat, t.mem.read a = s.mem.read a

/-- Before the handoff the rewind stays inside the processed region, in every state that meets the invariant. -/
def Obligations.RewindNeverPassesBufferStart : Prop :=
  ∀ (s : State) (r : Response), s.Inv → s.phase = .handoff r →
    r.la.toNat ≤ s.pos ∧ s.pos - r.la.toNat + (s.len - s.pos + r.la.toNat) = s.len ∧
    s.len - s.pos + r.la.toNat ≤ Config.blockSize + 2

/-! ### The sequencer -/

/-- R157 and R114: VALIDATE writes BASE, LEN and POS, then issues INIT. The queue the request is taken from, the steps VALIDATE is cut
into, the watch over the buffer, and that the first step keeps an earlier response which INIT then clears, are the model's choices
(assumptions 1, 2, 8 and 10). -/
def Obligations.ValidateBegins : Prop :=
  (∀ (p : Params) (s : State) (data : Nat) (buffer : List Byte) (rest : List Request), s.Asks p data buffer rest →
    stepWith p s = .next { s with port := rest, base := data, len := buffer.length, pos := 0,
                                  snapshot := buffer, disturbed := false, phase := .start }) ∧
  (∀ (p : Params) (s : State), s.phase = .start → s.bufferIntact = true →
    stepWith p s = .next { s with dp := Datapath.zero Config.blockSize, rsp := none, phase := .loop })

/-- R119 and R118: while N bytes remain, the step loads exactly the bytes at BASE + POS to BASE + POS + N - 1, whatever the alignment
and whatever flags are set, runs BLOCK on them, and advances POS by N. That this is one step, the check of the buffer, and that an
earlier response is cleared are the model's choices (assumptions 2, 8 and 10). -/
def Obligations.LoopStepRunsBlock : Prop :=
  ∀ (p : Params) (s : State), s.phase = .loop → s.bufferIntact = true → Config.blockSize ≤ s.len - s.pos →
    ∃ lanes : Vector Byte Config.blockSize,
      (∀ i < Config.blockSize, s.mem.read (s.base + s.pos + i) = some (lane lanes i)) ∧
      stepWith p s = .next { s with dp := s.dp.block lanes, rsp := none, pos := s.pos + Config.blockSize }

/-- R116: when fewer than N bytes remain the loop ends and FINISH is issued. That its answer shows on the response port too, that it is
kept in the sequencer's place, and the check of the buffer are the model's choices (assumptions 10, 2 and 8). -/
def Obligations.LoopEndsWithFinish : Prop :=
  ∀ (p : Params) (s : State), s.phase = .loop → s.bufferIntact = true → s.len - s.pos < Config.blockSize →
    stepWith p s = .next { s with rsp := some s.dp.response, phase := .handoff s.dp.response }

/-- R121 and R123: the handoff outputs TAIL_OFF = POS - LA and TAIL_LEN = LEN - POS + LA, hands TAIL exactly the bytes from there to the
end of the buffer, and VALID is `(!e) & t`, whatever TAIL answers. That this is one step, that it clears the watch over the buffer, and
that it keeps the response and stores the outputs are the model's choices (assumptions 2, 8 and 10). -/
def Obligations.HandoffOutputs : Prop :=
  ∀ (p : Params) (s : State) (r : Response), s.phase = .handoff r → s.bufferIntact = true → r.la.toNat ≤ s.pos → s.pos ≤ s.len →
    ∃ slice : List Byte, slice.length = s.len - s.pos + r.la.toNat ∧
      (∀ j < slice.length, s.mem.read (s.base + (s.pos - r.la.toNat) + j) = some (slice.getD j 0)) ∧
      s.pos - r.la.toNat + (s.len - s.pos + r.la.toNat) = s.len ∧
      stepWith p s = .next { s with tailOff := s.pos - r.la.toNat, tailLen := s.len - s.pos + r.la.toNat,
                                    valid := !r.errAny && p.tail slice, phase := .idle, snapshot := [], disturbed := false }

/-- R130 and R150: a run that breaks P1, P2, P3 or P4 is refused, each by its name, and one that meets P1, P3 and P4 is not. A change
of the buffer under a running VALIDATE is refused at the next step whatever is placed afterwards, the old bytes again included. The
queue and the order of the checks are the model's (assumptions 1 and 14), and so is the watch for P2 (assumption 8). -/
def Obligations.BrokenPreconditionsAreRefused : Prop :=
  (∀ (n : Nat) (p : Params) (m : Memory) (data len : Nat), n < 4 → validateAt n p m data len = .error .blockTooNarrow) ∧
  (∀ (p : Params) (s : State) (data len : Nat) (rest : List Request), s.phase = .idle → s.port = .validate data len :: rest →
    (p.lenOk len = false → stepWith p s = .refused .lengthBeyondWidth) ∧
    (p.lenOk len = true → p.addrOk data len = false → stepWith p s = .refused .addressBeyondWidth) ∧
    (p.lenOk len = true → p.addrOk data len = true → (∃ j < len, s.mem.read (data + j) = none) →
      stepWith p s = .refused .bufferNotReadable) ∧
    (p.lenOk len = true → p.addrOk data len = true → (∀ j < len, s.mem.read (data + j) ≠ none) → ∃ t, stepWith p s = .next t)) ∧
  (∀ (p : Params) (s : State), s.phase ≠ .idle → s.mem.readBytes s.base s.len ≠ some s.snapshot →
    stepWith p s = .refused .bufferChanged) ∧
  (∀ (p : Params) (s : State) (addr : Nat) (bytes : List Byte) (later : List (Nat × List Byte)), s.phase ≠ .idle →
    (s.place addr bytes).mem.readBytes s.base s.len ≠ some s.snapshot →
    stepWith p ((s.place addr bytes).placeAll later) = .refused .bufferChanged)

/-- R53, R130: what the host places elsewhere does not break P2, and a running VALIDATE whose buffer was not changed is never stopped.
The watch over the buffer is the model's (assumption 8). -/
def Obligations.UndisturbedBufferIsNeverRefused : Prop :=
  (∀ (s : State) (addr : Nat) (bytes : List Byte), s.bufferIntact = true →
    (∀ j < s.len, (s.place addr bytes).mem.read (s.base + j) = s.mem.read (s.base + j)) → (s.place addr bytes).bufferIntact = true) ∧
  (∀ (p : Params) (s : State), s.Inv → s.phase ≠ .idle → s.bufferIntact = true → ∃ t, stepWith p s = .next t ∧
    (t.phase ≠ .idle → t.bufferIntact = true))

/-- R151 and R152: hardware reset is INIT with POS, LEN and BASE zeroed, the stored outputs TAIL_OFF, TAIL_LEN and VALID zeroed too, a
RESET request does it, and no sequence of commands can tell it from INIT. That memory stays, and when a RESET request is taken, are
the model's choices (assumptions 11 and 1). -/
def Obligations.ResetIsInitWithZeroCursor : Prop :=
  (∀ (s t : State), exec .init s = .next t →
    s.hardwareReset.dp = t.dp ∧ s.hardwareReset.pos = 0 ∧ s.hardwareReset.len = 0 ∧ s.hardwareReset.base = 0 ∧
    s.hardwareReset.tailOff = 0 ∧ s.hardwareReset.tailLen = 0 ∧ s.hardwareReset.valid = false ∧
    s.hardwareReset.mem = s.mem ∧
    ∀ commands : List Instr, ∃ answers u v, runCommands commands s.hardwareReset = some (answers, u) ∧
      runCommands commands t = some (answers, v) ∧ u.dp = v.dp) ∧
  (∀ (p : Params) (s : State) (rest : List Request), s.phase = .idle → s.port = .reset :: rest →
    stepWith p s = .next (s.withPort rest).hardwareReset)

/-! ### VALIDATE as a whole -/

/-- The stepping sequencer performs R114: from an idle machine asked to VALIDATE a readable buffer, after `floor(LEN / N) + 4` steps
(of which `floor(LEN / N) + 2` are commands) every register and output is what the pseudocode gives, and the rest is unchanged. The number of steps, the
queue, and that the requests in `rest` wait while VALIDATE runs are the model's choices (assumptions 2, 1 and 3). -/
def Obligations.MachineRunsValidate : Prop :=
  ∀ (p : Params) (s : State) (data : Nat) (buffer : List Byte) (rest : List Request), s.Asks p data buffer rest →
    ∃ t : State, (coreWith p).run (buffer.length / Config.blockSize + 4) s = .next t ∧
      t.dp = (validate Config.blockSize p.tail buffer).dp ∧ t.pos = (validate Config.blockSize p.tail buffer).pos ∧
      t.tailOff = (validate Config.blockSize p.tail buffer).tailOff ∧ t.tailLen = (validate Config.blockSize p.tail buffer).tailLen ∧
      t.valid = (validate Config.blockSize p.tail buffer).valid ∧
      t.base = data ∧ t.len = buffer.length ∧ t.phase = .idle ∧ t.port = rest ∧ t.mem = s.mem

/-- R77 and R117: VALIDATE expands to INIT, floor(LEN / N) BLOCK commands and FINISH, and those commands, driven by hand from any
state, leave the datapath VALIDATE leaves and answer its `(e, la)`. -/
def Obligations.ExpansionComputesValidate : Prop :=
  ∀ (tail : List Byte → Bool) (buffer : List Byte) (s : State), ∃ answers t, runCommands (expansion buffer) s = some (answers, t) ∧
    answers.length = buffer.length / Config.blockSize + 2 ∧
    t.dp = (validate Config.blockSize tail buffer).dp ∧
    answers.getLast? = some (some (validate Config.blockSize tail buffer).dp.response)

/-- R117: the loop runs floor(LEN / N) times and leaves POS there, with a remainder shorter than N. -/
def Obligations.LoopCount : Prop :=
  ∀ (n : Nat) (tail : List Byte → Bool) (buffer : List Byte), 4 ≤ n →
    (validate n tail buffer).pos = n * (buffer.length / n) ∧
    buffer.length - (validate n tail buffer).pos = buffer.length % n ∧
    (validate n tail buffer).dp =
      afterBlocks ((List.range (buffer.length / n)).map fun k => blockAt n buffer (n * k))

/-- R122: the slice lies inside the buffer. -/
def Obligations.TailSliceInsideBuffer : Prop :=
  ∀ (n : Nat) (tail : List Byte → Bool) (buffer : List Byte), 4 ≤ n →
    (validate n tail buffer).tailOff ≤ (validate n tail buffer).pos ∧
    (validate n tail buffer).pos ≤ buffer.length ∧
    (validate n tail buffer).tailOff + (validate n tail buffer).tailLen = buffer.length ∧
    (validate n tail buffer).tailLen ≤ n + 2

/-- R115: a buffer shorter than a block goes to the tail validator whole. -/
def Obligations.ShortBufferGoesToTail : Prop :=
  ∀ (n : Nat) (tail : List Byte → Bool) (buffer : List Byte), buffer.length < n →
    validate n tail buffer =
      { dp := Datapath.zero n, pos := 0, tailOff := 0, tailLen := buffer.length, valid := tail buffer }

/-- R127 and R128: the scanner the machine uses as TAIL decides WF, so it meets the contract of R126; and the empty string is
well formed. That the machine takes WF as TAIL is the model's choice (assumption 7). -/
def Obligations.HardwareTailMeetsContract : Prop :=
  TailContract hardware.tail ∧ hardware.tail [] = true ∧ WF []

/-- R101: whatever the block size, the flag BLOCK computes for the byte at offset p is the one function E of that byte and its three
predecessors, whatever flags earlier blocks left; EACC collects it lane by lane. -/
def Obligations.ErrorsAreLocal : Prop :=
  ∀ (n : Nat) (blocks : List (Vector Byte n)), 4 ≤ n →
    (∀ i < n, ((afterBlocks blocks).eacc.getLsbD i = true ↔ ∃ j < blocks.length, offsetError (region blocks) (n * j + i) = true)) ∧
    (∀ v : Vector Byte n, ∀ i < n,
      (errorFlags (afterBlocks blocks) v).getLsbD i = offsetError (region (blocks ++ [v])) (n * blocks.length + i)) ∧
    ((afterBlocks blocks).errAny = true ↔ ∃ p < (region blocks).length, offsetError (region blocks) p = true)

/-- R102: after INIT and any blocks, no flag is set exactly when the processed region begins some well-formed string, that is, when it
is well-formed sequences followed by at most one incomplete sequence. -/
def Obligations.NoFlagIffRegionBeginsWellFormed : Prop :=
  ∀ (n : Nat) (blocks : List (Vector Byte n)), 4 ≤ n →
    ((afterBlocks blocks).errAny = false ↔ ∃ more, WF (region blocks ++ more)) ∧
    ((afterBlocks blocks).errAny = false ↔ ∃ whole cut, region blocks = whole ++ cut ∧ WF whole ∧ (cut = [] ∨ Incomplete cut))

/-- R112: when no flag is set the bytes before TAIL_OFF are complete sequences, so the buffer is well formed exactly when the slice
handed to TAIL is. -/
def Obligations.RewindIsSufficient : Prop :=
  ∀ (n : Nat) (tail : List Byte → Bool) (buffer : List Byte), 4 ≤ n → (validate n tail buffer).dp.errAny = false →
    WF (buffer.take (validate n tail buffer).tailOff) ∧
    (WF buffer ↔ WF (buffer.drop (validate n tail buffer).tailOff))

/-- R132: VALID is 1 exactly when the buffer is well formed, for every block size from 4 and every tail validator that meets its
contract; and so for a host's call on a memory, whenever P1, P3 and P4 let it run. -/
def Obligations.ValidateDecidesWellFormed : Prop :=
  (∀ (n : Nat) (tail : List Byte → Bool), 4 ≤ n → TailContract tail → DecidesWellFormed n tail) ∧
  (∀ (n : Nat) (p : Params) (m : Memory) (data len : Nat) (v : Verdict n), TailContract p.tail → validateAt n p m data len = .ok v →
    ∃ buffer, m.readBytes data len = some buffer ∧ (v.valid = true ↔ WF buffer))

/-- R113: under the alternative lead test the verdict is the same. -/
def Obligations.AlternativeLeadTestSameVerdict : Prop :=
  ∀ (n : Nat) (tail : List Byte → Bool) (buffer : List Byte), 4 ≤ n → TailContract tail →
    (validateBy n alternativeLookahead tail buffer).valid = (validate n tail buffer).valid

/-- R133: the truncation, boundary-straddle and ASCII properties. -/
def Obligations.TestableProperties : Prop :=
  ∀ (n : Nat) (tail : List Byte → Bool), 4 ≤ n → TailContract tail →
    (∀ buffer : List Byte, (validate n tail (buffer ++ [0xCC#8])).valid = false) ∧
    (∀ (k : Nat) (before q after : List Byte), 1 ≤ k → k ≤ 3 → before.length + k = n → WF before → WF after →
      isSequence q = true → 2 ≤ q.length → (validate n tail (before ++ q ++ after)).valid = true) ∧
    (∀ buffer : List Byte, (validate n tail (buffer.map fun b => b &&& 0x7F#8)).valid = true)

/-- R131: what VALIDATE outputs and leaves depends on the bytes of the buffer only: not on what any register or flag held before, nor
on where the buffer lies, nor on what else memory or the port holds. That the requests in `rest1` and `rest2` wait, and that both take
the same number of steps, are the model's choices (assumptions 1, 3 and 2). -/
def Obligations.ValidateIsPure : Prop :=
  ∀ (p : Params) (s1 s2 : State) (data1 data2 : Nat) (buffer : List Byte) (rest1 rest2 : List Request),
    s1.Asks p data1 buffer rest1 → s2.Asks p data2 buffer rest2 →
    ∃ k t1 t2, (coreWith p).run k s1 = .next t1 ∧ (coreWith p).run k s2 = .next t2 ∧ t1.phase = .idle ∧ t2.phase = .idle ∧
      t1.port = rest1 ∧ t2.port = rest2 ∧
      t1.valid = t2.valid ∧ t1.tailOff = t2.tailOff ∧ t1.tailLen = t2.tailLen ∧ t1.dp = t2.dp ∧ t1.pos = t2.pos

/-- R129, end to end: the host puts any buffer anywhere in memory and asks for its VALIDATE; after `floor(LEN / N) + 4` steps the machine
is idle again and VALID is 1 exactly when the buffer is well-formed UTF-8. It rests on the machine's choices of
TAIL, widths, memory, steps and the queue (assumptions 1, 2, 4, 6 and 7). -/
def Obligations.SubmittedBufferIsJudged : Prop :=
  ∀ (s : State) (addr : Nat) (buffer : List Byte), s.phase = .idle → s.port = [] →
    ∃ t : State, Sys2Proof.core.run (buffer.length / Config.blockSize + 4) (s.submit addr buffer) = .next t ∧
      t.phase = .idle ∧ t.port = [] ∧ (t.valid = true ↔ WF buffer)

/-! ### The textual form -/

/-- R76 and R77: reading the text of a line gives the line back, with or without a comment after it, and FINISH with its response noted
is FINISH, VALIDATE with its result noted is VALIDATE on the same bytes. A BLOCK line stands for a command exactly when it has N bytes.
That a BLOCK line of any number of bytes is read, the letter case, the spaces and the skipping of what follows the arrow are the model's
choices (DESIGN CHOICE, assumption 9). -/
def Obligations.TextualFormRoundTrip : Prop :=
  (∀ l : Line, parseLine (printLine l) = .ok (some l)) ∧
  (∀ (l : Line) (comment : List Char), parseLine (printLine l ++ ';' :: comment) = .ok (some l)) ∧
  (∀ r : Response, parseLine (printFinish r) = .ok (some .finish)) ∧
  (∀ (bytes : List Byte) (valid : Bool) (off len : Nat), parseLine (printValidate bytes valid off len) = .ok (some (.validate bytes))) ∧
  (∀ bytes : List Byte, (∃ lanes, lineInstr (.block bytes) = some (.block lanes) ∧ lanes.toList = bytes) ↔
    (Line.block bytes).wellFormed = true)
end

