-- ==== Sys2Proof/Laws/State.lean ====
section
/-! SUPPORT. What each named update of the state leaves in each field, so that no proof unfolds an update, and the same for the two
datapath updates. -/

namespace Sys2Proof.Machine

/-! ### afterCommand -/

@[simp] theorem State.afterCommand_dp (s : State) (d : Datapath Config.blockSize) (r : Option Response) : (s.afterCommand d r).dp = d := rfl
@[simp] theorem State.afterCommand_base (s : State) (d : Datapath Config.blockSize) (r : Option Response) : (s.afterCommand d r).base = s.base := rfl
@[simp] theorem State.afterCommand_len (s : State) (d : Datapath Config.blockSize) (r : Option Response) : (s.afterCommand d r).len = s.len := rfl
@[simp] theorem State.afterCommand_pos (s : State) (d : Datapath Config.blockSize) (r : Option Response) : (s.afterCommand d r).pos = s.pos := rfl
@[simp] theorem State.afterCommand_tailOff (s : State) (d : Datapath Config.blockSize) (r : Option Response) : (s.afterCommand d r).tailOff = s.tailOff := rfl
@[simp] theorem State.afterCommand_tailLen (s : State) (d : Datapath Config.blockSize) (r : Option Response) : (s.afterCommand d r).tailLen = s.tailLen := rfl
@[simp] theorem State.afterCommand_valid (s : State) (d : Datapath Config.blockSize) (r : Option Response) : (s.afterCommand d r).valid = s.valid := rfl
@[simp] theorem State.afterCommand_rsp (s : State) (d : Datapath Config.blockSize) (r : Option Response) : (s.afterCommand d r).rsp = r := rfl
@[simp] theorem State.afterCommand_phase (s : State) (d : Datapath Config.blockSize) (r : Option Response) : (s.afterCommand d r).phase = s.phase := rfl
@[simp] theorem State.afterCommand_snapshot (s : State) (d : Datapath Config.blockSize) (r : Option Response) : (s.afterCommand d r).snapshot = s.snapshot := rfl
@[simp] theorem State.afterCommand_disturbed (s : State) (d : Datapath Config.blockSize) (r : Option Response) : (s.afterCommand d r).disturbed = s.disturbed := rfl
@[simp] theorem State.afterCommand_mem (s : State) (d : Datapath Config.blockSize) (r : Option Response) : (s.afterCommand d r).mem = s.mem := rfl
@[simp] theorem State.afterCommand_port (s : State) (d : Datapath Config.blockSize) (r : Option Response) : (s.afterCommand d r).port = s.port := rfl

/-! ### withPort -/

@[simp] theorem State.withPort_dp (s : State) (rest : List Request) : (s.withPort rest).dp = s.dp := rfl
@[simp] theorem State.withPort_base (s : State) (rest : List Request) : (s.withPort rest).base = s.base := rfl
@[simp] theorem State.withPort_len (s : State) (rest : List Request) : (s.withPort rest).len = s.len := rfl
@[simp] theorem State.withPort_pos (s : State) (rest : List Request) : (s.withPort rest).pos = s.pos := rfl
@[simp] theorem State.withPort_tailOff (s : State) (rest : List Request) : (s.withPort rest).tailOff = s.tailOff := rfl
@[simp] theorem State.withPort_tailLen (s : State) (rest : List Request) : (s.withPort rest).tailLen = s.tailLen := rfl
@[simp] theorem State.withPort_valid (s : State) (rest : List Request) : (s.withPort rest).valid = s.valid := rfl
@[simp] theorem State.withPort_rsp (s : State) (rest : List Request) : (s.withPort rest).rsp = s.rsp := rfl
@[simp] theorem State.withPort_phase (s : State) (rest : List Request) : (s.withPort rest).phase = s.phase := rfl
@[simp] theorem State.withPort_snapshot (s : State) (rest : List Request) : (s.withPort rest).snapshot = s.snapshot := rfl
@[simp] theorem State.withPort_disturbed (s : State) (rest : List Request) : (s.withPort rest).disturbed = s.disturbed := rfl
@[simp] theorem State.withPort_mem (s : State) (rest : List Request) : (s.withPort rest).mem = s.mem := rfl
@[simp] theorem State.withPort_port (s : State) (rest : List Request) : (s.withPort rest).port = rest := rfl

/-! ### withPhase -/

@[simp] theorem State.withPhase_dp (s : State) (p : Phase) : (s.withPhase p).dp = s.dp := rfl
@[simp] theorem State.withPhase_base (s : State) (p : Phase) : (s.withPhase p).base = s.base := rfl
@[simp] theorem State.withPhase_len (s : State) (p : Phase) : (s.withPhase p).len = s.len := rfl
@[simp] theorem State.withPhase_pos (s : State) (p : Phase) : (s.withPhase p).pos = s.pos := rfl
@[simp] theorem State.withPhase_tailOff (s : State) (p : Phase) : (s.withPhase p).tailOff = s.tailOff := rfl
@[simp] theorem State.withPhase_tailLen (s : State) (p : Phase) : (s.withPhase p).tailLen = s.tailLen := rfl
@[simp] theorem State.withPhase_valid (s : State) (p : Phase) : (s.withPhase p).valid = s.valid := rfl
@[simp] theorem State.withPhase_rsp (s : State) (p : Phase) : (s.withPhase p).rsp = s.rsp := rfl
@[simp] theorem State.withPhase_phase (s : State) (p : Phase) : (s.withPhase p).phase = p := rfl
@[simp] theorem State.withPhase_snapshot (s : State) (p : Phase) : (s.withPhase p).snapshot = s.snapshot := rfl
@[simp] theorem State.withPhase_disturbed (s : State) (p : Phase) : (s.withPhase p).disturbed = s.disturbed := rfl
@[simp] theorem State.withPhase_mem (s : State) (p : Phase) : (s.withPhase p).mem = s.mem := rfl
@[simp] theorem State.withPhase_port (s : State) (p : Phase) : (s.withPhase p).port = s.port := rfl

/-! ### begin -/

@[simp] theorem State.begin_dp (s : State) (data n : Nat) (buffer : List Byte) : (s.begin data n buffer).dp = s.dp := rfl
@[simp] theorem State.begin_base (s : State) (data n : Nat) (buffer : List Byte) : (s.begin data n buffer).base = data := rfl
@[simp] theorem State.begin_len (s : State) (data n : Nat) (buffer : List Byte) : (s.begin data n buffer).len = n := rfl
@[simp] theorem State.begin_pos (s : State) (data n : Nat) (buffer : List Byte) : (s.begin data n buffer).pos = 0 := rfl
@[simp] theorem State.begin_tailOff (s : State) (data n : Nat) (buffer : List Byte) : (s.begin data n buffer).tailOff = s.tailOff := rfl
@[simp] theorem State.begin_tailLen (s : State) (data n : Nat) (buffer : List Byte) : (s.begin data n buffer).tailLen = s.tailLen := rfl
@[simp] theorem State.begin_valid (s : State) (data n : Nat) (buffer : List Byte) : (s.begin data n buffer).valid = s.valid := rfl
@[simp] theorem State.begin_rsp (s : State) (data n : Nat) (buffer : List Byte) : (s.begin data n buffer).rsp = s.rsp := rfl
@[simp] theorem State.begin_phase (s : State) (data n : Nat) (buffer : List Byte) : (s.begin data n buffer).phase = .start := rfl
@[simp] theorem State.begin_snapshot (s : State) (data n : Nat) (buffer : List Byte) : (s.begin data n buffer).snapshot = buffer := rfl
@[simp] theorem State.begin_disturbed (s : State) (data n : Nat) (buffer : List Byte) : (s.begin data n buffer).disturbed = false := rfl
@[simp] theorem State.begin_mem (s : State) (data n : Nat) (buffer : List Byte) : (s.begin data n buffer).mem = s.mem := rfl
@[simp] theorem State.begin_port (s : State) (data n : Nat) (buffer : List Byte) : (s.begin data n buffer).port = s.port := rfl

/-! ### advance -/

@[simp] theorem State.advance_dp (s : State) : (s.advance).dp = s.dp := rfl
@[simp] theorem State.advance_base (s : State) : (s.advance).base = s.base := rfl
@[simp] theorem State.advance_len (s : State) : (s.advance).len = s.len := rfl
@[simp] theorem State.advance_pos (s : State) : (s.advance).pos = s.pos + Config.blockSize := rfl
@[simp] theorem State.advance_tailOff (s : State) : (s.advance).tailOff = s.tailOff := rfl
@[simp] theorem State.advance_tailLen (s : State) : (s.advance).tailLen = s.tailLen := rfl
@[simp] theorem State.advance_valid (s : State) : (s.advance).valid = s.valid := rfl
@[simp] theorem State.advance_rsp (s : State) : (s.advance).rsp = s.rsp := rfl
@[simp] theorem State.advance_phase (s : State) : (s.advance).phase = s.phase := rfl
@[simp] theorem State.advance_snapshot (s : State) : (s.advance).snapshot = s.snapshot := rfl
@[simp] theorem State.advance_disturbed (s : State) : (s.advance).disturbed = s.disturbed := rfl
@[simp] theorem State.advance_mem (s : State) : (s.advance).mem = s.mem := rfl
@[simp] theorem State.advance_port (s : State) : (s.advance).port = s.port := rfl

/-! ### conclude -/

@[simp] theorem State.conclude_dp (s : State) (off size : Nat) (v : Bool) : (s.conclude off size v).dp = s.dp := rfl
@[simp] theorem State.conclude_base (s : State) (off size : Nat) (v : Bool) : (s.conclude off size v).base = s.base := rfl
@[simp] theorem State.conclude_len (s : State) (off size : Nat) (v : Bool) : (s.conclude off size v).len = s.len := rfl
@[simp] theorem State.conclude_pos (s : State) (off size : Nat) (v : Bool) : (s.conclude off size v).pos = s.pos := rfl
@[simp] theorem State.conclude_tailOff (s : State) (off size : Nat) (v : Bool) : (s.conclude off size v).tailOff = off := rfl
@[simp] theorem State.conclude_tailLen (s : State) (off size : Nat) (v : Bool) : (s.conclude off size v).tailLen = size := rfl
@[simp] theorem State.conclude_valid (s : State) (off size : Nat) (v : Bool) : (s.conclude off size v).valid = v := rfl
@[simp] theorem State.conclude_rsp (s : State) (off size : Nat) (v : Bool) : (s.conclude off size v).rsp = s.rsp := rfl
@[simp] theorem State.conclude_phase (s : State) (off size : Nat) (v : Bool) : (s.conclude off size v).phase = .idle := rfl
@[simp] theorem State.conclude_snapshot (s : State) (off size : Nat) (v : Bool) : (s.conclude off size v).snapshot = [] := rfl
@[simp] theorem State.conclude_disturbed (s : State) (off size : Nat) (v : Bool) : (s.conclude off size v).disturbed = false := rfl
@[simp] theorem State.conclude_mem (s : State) (off size : Nat) (v : Bool) : (s.conclude off size v).mem = s.mem := rfl
@[simp] theorem State.conclude_port (s : State) (off size : Nat) (v : Bool) : (s.conclude off size v).port = s.port := rfl

/-! ### withMem -/

@[simp] theorem State.withMem_dp (s : State) (m : Memory) : (s.withMem m).dp = s.dp := rfl
@[simp] theorem State.withMem_base (s : State) (m : Memory) : (s.withMem m).base = s.base := rfl
@[simp] theorem State.withMem_len (s : State) (m : Memory) : (s.withMem m).len = s.len := rfl
@[simp] theorem State.withMem_pos (s : State) (m : Memory) : (s.withMem m).pos = s.pos := rfl
@[simp] theorem State.withMem_tailOff (s : State) (m : Memory) : (s.withMem m).tailOff = s.tailOff := rfl
@[simp] theorem State.withMem_tailLen (s : State) (m : Memory) : (s.withMem m).tailLen = s.tailLen := rfl
@[simp] theorem State.withMem_valid (s : State) (m : Memory) : (s.withMem m).valid = s.valid := rfl
@[simp] theorem State.withMem_rsp (s : State) (m : Memory) : (s.withMem m).rsp = s.rsp := rfl
@[simp] theorem State.withMem_phase (s : State) (m : Memory) : (s.withMem m).phase = s.phase := rfl
@[simp] theorem State.withMem_snapshot (s : State) (m : Memory) : (s.withMem m).snapshot = s.snapshot := rfl
@[simp] theorem State.withMem_disturbed (s : State) (m : Memory) : (s.withMem m).disturbed = (s.disturbed || (decide (s.phase ≠ .idle) && !s.holdsBuffer m)) := rfl
@[simp] theorem State.withMem_mem (s : State) (m : Memory) : (s.withMem m).mem = m := rfl
@[simp] theorem State.withMem_port (s : State) (m : Memory) : (s.withMem m).port = s.port := rfl

/-! ### hardwareReset -/

@[simp] theorem State.hardwareReset_dp (s : State) : (s.hardwareReset).dp = Datapath.zero Config.blockSize := rfl
@[simp] theorem State.hardwareReset_base (s : State) : (s.hardwareReset).base = 0 := rfl
@[simp] theorem State.hardwareReset_len (s : State) : (s.hardwareReset).len = 0 := rfl
@[simp] theorem State.hardwareReset_pos (s : State) : (s.hardwareReset).pos = 0 := rfl
@[simp] theorem State.hardwareReset_tailOff (s : State) : (s.hardwareReset).tailOff = 0 := rfl
@[simp] theorem State.hardwareReset_tailLen (s : State) : (s.hardwareReset).tailLen = 0 := rfl
@[simp] theorem State.hardwareReset_valid (s : State) : (s.hardwareReset).valid = false := rfl
@[simp] theorem State.hardwareReset_rsp (s : State) : (s.hardwareReset).rsp = none := rfl
@[simp] theorem State.hardwareReset_phase (s : State) : (s.hardwareReset).phase = .idle := rfl
@[simp] theorem State.hardwareReset_snapshot (s : State) : (s.hardwareReset).snapshot = [] := rfl
@[simp] theorem State.hardwareReset_disturbed (s : State) : (s.hardwareReset).disturbed = false := rfl
@[simp] theorem State.hardwareReset_mem (s : State) : (s.hardwareReset).mem = s.mem := rfl
@[simp] theorem State.hardwareReset_port (s : State) : (s.hardwareReset).port = s.port := rfl

/-! ### Datapath.zero and Datapath.init -/

@[simp] theorem Datapath.zero_pin1 (n : Nat) : (Datapath.zero n).pin1 = 0x00#8 := rfl
@[simp] theorem Datapath.zero_pin2 (n : Nat) : (Datapath.zero n).pin2 = 0x00#8 := rfl
@[simp] theorem Datapath.zero_pin3 (n : Nat) : (Datapath.zero n).pin3 = 0x00#8 := rfl
@[simp] theorem Datapath.zero_pcc1 (n : Nat) : (Datapath.zero n).pcc1 = 0#2 := rfl
@[simp] theorem Datapath.zero_pcc2 (n : Nat) : (Datapath.zero n).pcc2 = 0#2 := rfl
@[simp] theorem Datapath.zero_pcc3 (n : Nat) : (Datapath.zero n).pcc3 = 0#2 := rfl
@[simp] theorem Datapath.zero_eacc (n : Nat) : (Datapath.zero n).eacc = 0#n := rfl
@[simp] theorem Datapath.init_eq_zero {n : Nat} (d : Datapath n) : d.init = Datapath.zero n := rfl

/-! ### Datapath.block (R92, R93) -/

section
variable {n : Nat} (d : Datapath n) (v : Vector Byte n)

@[simp] theorem Datapath.block_pin1 : (d.block v).pin1 = lane v (n - 1) := rfl
@[simp] theorem Datapath.block_pin2 : (d.block v).pin2 = lane v (n - 2) := rfl
@[simp] theorem Datapath.block_pin3 : (d.block v).pin3 = lane v (n - 3) := rfl
@[simp] theorem Datapath.block_pcc1 : (d.block v).pcc1 = laneCount v (n - 1) := rfl
@[simp] theorem Datapath.block_pcc2 : (d.block v).pcc2 = laneCount v (n - 2) := rfl
@[simp] theorem Datapath.block_pcc3 : (d.block v).pcc3 = laneCount v (n - 3) := rfl
@[simp] theorem Datapath.block_eacc : (d.block v).eacc = d.eacc ||| errorFlags d v := rfl

end

end Sys2Proof.Machine
end

