-- ==== Sys2Proof/Laws/Flags.lean ====
section
/-! SUPPORT. The laws of the flag computations: the bits of the vector of lane flags, ERR_ANY as an existence of a set bit, and BLOCK's
flag of a lane as the function E of R101 applied to the lane's three predecessors. -/

namespace Sys2Proof.Machine

theorem bitsOf_getLsbD (f : Nat → Bool) : ∀ (n i : Nat), i < n → (bitsOf f n).getLsbD i = f i := by
  intro n
  induction n with
  | zero => intro i h; omega
  | succ n ih =>
    intro i h
    simp only [bitsOf, BitVec.getLsbD_cons]
    split
    · subst_vars; rfl
    · exact ih i (by omega)

/-- Bit `i` of the flags of a block is lane `i`'s flag (R90). -/
theorem errorFlags_getLsbD {n : Nat} (d : Datapath n) (v : Vector Byte n) {i : Nat} (h : i < n) :
    (errorFlags d v).getLsbD i = laneError d v i := bitsOf_getLsbD _ n i h

/-- A vector of flags is non-zero exactly when a bit is set. -/
theorem ne_zero_iff_getLsbD {n : Nat} (x : BitVec n) : x ≠ 0#n ↔ ∃ i < n, x.getLsbD i = true := by
  constructor
  · intro h
    by_contra hn
    push Not at hn
    apply h
    apply BitVec.eq_of_getLsbD_eq
    intro i hi
    simpa using hn i hi
  · rintro ⟨i, -, hb⟩ rfl
    simp at hb

/-- ERR_ANY is the OR-reduction of EACC (R28). -/
theorem errAny_iff {n : Nat} (d : Datapath n) : d.errAny = true ↔ ∃ i < n, d.eacc.getLsbD i = true := by
  rw [Datapath.errAny, bne_iff_ne]
  exact ne_zero_iff_getLsbD d.eacc

/-- Bit `i` of EACC after BLOCK (R92). -/
theorem block_eacc_getLsbD {n : Nat} (d : Datapath n) (v : Vector Byte n) {i : Nat} (h : i < n) :
    (d.block v).eacc.getLsbD i = (d.eacc.getLsbD i || laneError d v i) := by
  simp [errorFlags_getLsbD d v h]

/-- ERR_ANY after BLOCK: it was set, or a lane of the block flags (R92, R139). -/
theorem block_errAny_iff {n : Nat} (d : Datapath n) (v : Vector Byte n) :
    (d.block v).errAny = true ↔ d.errAny = true ∨ ∃ i < n, laneError d v i = true := by
  rw [errAny_iff, errAny_iff]
  constructor
  · rintro ⟨i, hi, hb⟩
    rw [block_eacc_getLsbD d v hi, Bool.or_eq_true] at hb
    exact hb.imp (fun h => ⟨i, hi, h⟩) (fun h => ⟨i, hi, h⟩)
  · rintro (⟨i, hi, hb⟩ | ⟨i, hi, hb⟩) <;>
      exact ⟨i, hi, by rw [block_eacc_getLsbD d v hi]; simp [hb]⟩

@[simp] theorem zero_errAny (n : Nat) : (Datapath.zero n).errAny = false := by simp [Datapath.errAny]

/-- On a carried state whose counts agree with its bytes (R24), the counts of the extended sequence are those of its bytes, from -3
on. -/
theorem xcc_eq_of_counts {n : Nat} (d : Datapath n) (v : Vector Byte n)
    (h1 : d.pcc1 = ccnt (highNibble d.pin1)) (h2 : d.pcc2 = ccnt (highNibble d.pin2)) (h3 : d.pcc3 = ccnt (highNibble d.pin3))
    (j : Int) (hj : -3 ≤ j) : xcc d v j = ccnt (highNibble (xin d v j)) := by
  match j, hj with
  | .ofNat i, _ => rfl
  | .negSucc 0, _ => exact h1
  | .negSucc 1, _ => exact h2
  | .negSucc 2, _ => exact h3
  | .negSucc (k + 3), hj => omega

/-- The flag of a lane is E of the lane's byte and its three predecessors (R101), on a carried state that meets R24. -/
theorem laneError_eq_byteError {n : Nat} (d : Datapath n) (v : Vector Byte n)
    (h1 : d.pcc1 = ccnt (highNibble d.pin1)) (h2 : d.pcc2 = ccnt (highNibble d.pin2)) (h3 : d.pcc3 = ccnt (highNibble d.pin3))
    (i : Nat) :
    laneError d v i = byteError (xin d v ((i : Int) - 3)) (xin d v ((i : Int) - 2)) (xin d v ((i : Int) - 1)) (lane v i) := by
  simp only [laneError, byteError, index, index0, laneCorr, laneBase, c1, c2, c3]
  rw [xcc_eq_of_counts d v h1 h2 h3 _ (by omega), xcc_eq_of_counts d v h1 h2 h3 _ (by omega),
    xcc_eq_of_counts d v h1 h2 h3 _ (by omega)]

end Sys2Proof.Machine
end

