-- ==== Sys2Proof/Laws/Memory.lean ====
section
/-! SUPPORT. The laws of memory: what a read gives after a write, that every write keeps the canonical form, and what a block load
loads. -/

namespace Sys2Proof.Machine

@[simp] theorem Memory.read_nil (a : Nat) : Memory.read [] a = none := rfl

@[simp] theorem Memory.read_cons (c : Host.Cell) (rest : Memory) (a : Nat) :
    Memory.read (c :: rest) a = if c.1 = a then some c.2 else Memory.read rest a := rfl

/-- A read after a write to the same address gives the byte written. -/
theorem Memory.read_write_same (m : Memory) (a : Nat) (b : Byte) : (m.write a b).read a = some b := by
  induction m with
  | nil => simp [Memory.write]
  | cons c rest ih =>
    simp only [Memory.write]
    split
    · simp
    · split
      · simp
      · rename_i h1 h2
        simp [ih, Ne.symm h2]

/-- A write leaves every other address alone. -/
theorem Memory.read_write_other (m : Memory) {a c : Nat} (b : Byte) (h : c ≠ a) : (m.write a b).read c = m.read c := by
  induction m with
  | nil => simp [Memory.write, h.symm]
  | cons x rest ih =>
    simp only [Memory.write]
    split
    · simp [h.symm]
    · split
      · rename_i h2
        subst h2
        simp [h.symm]
      · simp [ih]

/-- A memory in canonical form with a lower cell in front is in canonical form. -/
theorem Memory.wf_cons (c : Host.Cell) (m : Memory) :
    Memory.wf (c :: m) = true ↔ (∀ d ∈ m.head?, c.1 < d.1) ∧ Memory.wf m = true := by
  cases m with
  | nil => simp [Memory.wf]
  | cons d rest => simp [Memory.wf]

/-- The lowest address after a write is the one written or the lowest one before. -/
theorem Memory.head_write (m : Memory) (a : Nat) (b : Byte) {d : Host.Cell} (h : d ∈ (m.write a b).head?) :
    d.1 = a ∨ d ∈ m.head? := by
  cases m with
  | nil => simp [Memory.write] at h; simp [← h]
  | cons c rest =>
    simp only [Memory.write] at h
    split at h
    · simp at h; simp [← h]
    · split at h
      · simp at h; simp [← h]
      · right; simpa using h

/-- Every write keeps the canonical form. -/
theorem Memory.write_wf (m : Memory) (a : Nat) (b : Byte) (h : m.wf = true) : (m.write a b).wf = true := by
  induction m with
  | nil => rfl
  | cons c rest ih =>
    obtain ⟨hlt, hrest⟩ := (Memory.wf_cons c rest).mp h
    simp only [Memory.write]
    split
    · exact (Memory.wf_cons _ _).mpr ⟨by simpa using ‹a < c.1›, h⟩
    · split
      · rename_i _ heq
        exact (Memory.wf_cons _ _).mpr ⟨by simpa [heq] using hlt, hrest⟩
      · refine (Memory.wf_cons _ _).mpr ⟨fun d hd => ?_, ih hrest⟩
        rcases Memory.head_write rest a b hd with h1 | h1
        · omega
        · exact hlt d h1

/-- Placing bytes keeps the canonical form. -/
theorem Memory.writeBytes_wf (bytes : List Byte) : ∀ (m : Memory) (a : Nat), m.wf = true → (m.writeBytes a bytes).wf = true := by
  induction bytes with
  | nil => intro m a h; exact h
  | cons b rest ih => intro m a h; exact ih _ _ (Memory.write_wf m a b h)

/-- What a read of several bytes answers: exactly the bytes at the addresses in a row, all of them readable. -/
theorem Memory.readBytes_eq_some (m : Memory) : ∀ (n a : Nat) (bytes : List Byte),
    m.readBytes a n = some bytes ↔ bytes.length = n ∧ ∀ j < n, m.read (a + j) = some (bytes.getD j 0) := by
  intro n
  induction n with
  | zero =>
    intro a bytes
    constructor
    · intro h; simp only [Memory.readBytes, Option.some.injEq] at h; subst h; simp
    · rintro ⟨h, -⟩; simp [Memory.readBytes, List.length_eq_zero_iff.mp h]
  | succ n ih =>
    intro a bytes
    constructor
    · intro h
      simp only [Memory.readBytes] at h
      cases hb : m.read a with
      | none => simp [hb] at h
      | some b =>
        cases hr : m.readBytes (a + 1) n with
        | none => simp [hb, hr] at h
        | some rest =>
          simp only [hb, hr, Option.some.injEq] at h
          subst h
          obtain ⟨hl, hj⟩ := (ih (a + 1) rest).mp hr
          refine ⟨by simp [hl], fun j hlt => ?_⟩
          cases j with
          | zero => simpa using hb
          | succ j =>
            have := hj j (by omega)
            rw [Nat.add_assoc, Nat.add_comm 1 j] at this
            simpa using this
    · rintro ⟨hl, hj⟩
      cases bytes with
      | nil => simp at hl
      | cons b rest =>
        have h0 : m.read a = some b := by simpa using hj 0 (by omega)
        have hr : m.readBytes (a + 1) n = some rest := by
          refine (ih (a + 1) rest).mpr ⟨by simpa using hl, fun j hlt => ?_⟩
          have := hj (j + 1) (by omega)
          rw [Nat.add_assoc, Nat.add_comm 1 j]
          simpa using this
        simp [Memory.readBytes, h0, hr]

/-- A read of several bytes fails exactly when one of them is not readable. -/
theorem Memory.readBytes_eq_none (m : Memory) (a n : Nat) : m.readBytes a n = none ↔ ∃ j < n, m.read (a + j) = none := by
  induction n generalizing a with
  | zero => simp [Memory.readBytes]
  | succ n ih =>
    simp only [Memory.readBytes]
    cases hb : m.read a with
    | none => simpa using ⟨0, by omega, by simpa using hb⟩
    | some b =>
      have step : (∃ j < n + 1, m.read (a + j) = none) ↔ m.readBytes (a + 1) n = none := by
        rw [ih]
        constructor
        · rintro ⟨j, hj, hn⟩
          cases j with
          | zero => simp [hb] at hn
          | succ j => exact ⟨j, by omega, by rw [← hn]; congr 1; omega⟩
        · rintro ⟨j, hj, hn⟩
          exact ⟨j + 1, by omega, by rw [← hn]; congr 1; omega⟩
      rw [step]
      cases m.readBytes (a + 1) n <;> simp

/-- What a block load answers: lane `i` is the byte at `a + i` (R44). -/
theorem Memory.readBlock_lanes (m : Memory) (a n : Nat) (v : Vector Byte n) (h : m.readBlock a n = some v) :
    ∀ i < n, m.read (a + i) = some (lane v i) := by
  intro i hi
  simp only [Memory.readBlock] at h
  cases hb : m.readBytes a n with
  | none => simp [hb] at h
  | some bytes =>
    simp only [hb, Option.some.injEq] at h
    subst h
    simpa [lane, hi] using ((Memory.readBytes_eq_some m n a bytes).mp hb).2 i hi

end Sys2Proof.Machine
end

