-- ==== Sys2Proof/Laws/Exec.lean ====
section
/-! SUPPORT. What a command leaves, and everything one step can do: the inversion lemma that claims about steps cite. -/

namespace Sys2Proof.Machine

/-- The datapath a command leaves (R78, R79, R104, R106). -/
def commandDatapath (i : Instr) (d : Datapath Config.blockSize) : Datapath Config.blockSize :=
  match i with
  | .nop => d
  | .init => d.init
  | .block lanes => d.block lanes
  | .finish => d

/-- The response a command produces (R63). -/
def commandResponse (i : Instr) (d : Datapath Config.blockSize) : Option Response :=
  match i with
  | .nop => none
  | .init => none
  | .block _ => none
  | .finish => some d.response

/-- Every command, in one equation: only the datapath and the response change. -/
theorem exec_eq (i : Instr) (s : State) : exec i s = .next (s.afterCommand (commandDatapath i s.dp) (commandResponse i s.dp)) := by
  cases i <;> rfl

/-- A command's next state is the one of exec_eq. -/
theorem exec_next {i : Instr} {s t : State} (h : exec i s = .next t) :
    t = s.afterCommand (commandDatapath i s.dp) (commandResponse i s.dp) := by
  rw [exec_eq] at h
  exact (Host.Outcome.next.inj h).symm

@[simp] theorem andThen_next (s : State) (f : State → Host.Outcome State Fault Refusal) : andThen (.next s) f = f s := rfl

/-- The body of the loop on a readable block (R114, R119). -/
theorem issueBlock_eq {s : State} {lanes : Vector Byte Config.blockSize}
    (h : s.mem.readBlock (s.base + s.pos) Config.blockSize = some lanes) :
    issueBlock s = .next (s.afterCommand (s.dp.block lanes) none).advance := by
  simp only [issueBlock, h, exec, execBlock, andThen_next]

/-- What a round of the loop leaves, field by field (R114). -/
theorem afterCommand_advance (s : State) (d : Datapath Config.blockSize) (r : Option Response) :
    (s.afterCommand d r).advance = { s with dp := d, rsp := r, pos := s.pos + Config.blockSize } := rfl

/-- A run takes its first step and goes on from there. -/
theorem coreWith_run_succ (p : Params) (k : Nat) {s t : State} (h : stepWith p s = .next t) :
    (coreWith p).run (k + 1) s = (coreWith p).run k t := by
  have : (coreWith p).step s = .next t := h
  simp only [Host.Core.run, this]

theorem issueInit_eq (s : State) : issueInit s = .next ((s.afterCommand (Datapath.zero Config.blockSize) none).withPhase .loop) := rfl

theorem issueFinish_eq (s : State) :
    issueFinish s = .next ((s.afterCommand s.dp (some s.dp.response)).withPhase (.handoff s.dp.response)) := rfl

/-- The handoff of a readable slice (R121, R123). -/
theorem handoff_eq {p : Params} {r : Response} {s : State} {slice : List Byte}
    (h : s.mem.readBytes (s.base + (s.pos - r.la.toNat)) (s.len - s.pos + r.la.toNat) = some slice) :
    handoff p r s = .next (s.conclude (s.pos - r.la.toNat) (s.len - s.pos + r.la.toNat) (!r.errAny && p.tail slice)) := by
  simp only [handoff, h]

/-- What P2 asks, in its two parts. -/
theorem bufferIntact_iff (s : State) : s.bufferIntact = true ↔ s.disturbed = false ∧ s.mem.readBytes s.base s.len = some s.snapshot := by
  simp [State.bufferIntact, State.holdsBuffer]

/-! What only reads memory and moves the sequencer leaves P2 as it was. -/

@[simp] theorem bufferIntact_afterCommand (s : State) (d : Datapath Config.blockSize) (r : Option Response) :
    (s.afterCommand d r).bufferIntact = s.bufferIntact := rfl
@[simp] theorem bufferIntact_withPort (s : State) (rest : List Request) : (s.withPort rest).bufferIntact = s.bufferIntact := rfl
@[simp] theorem bufferIntact_withPhase (s : State) (p : Phase) : (s.withPhase p).bufferIntact = s.bufferIntact := rfl
@[simp] theorem bufferIntact_advance (s : State) : s.advance.bufferIntact = s.bufferIntact := rfl

/-- VALIDATE begins with P2 met (R156). -/
theorem bufferIntact_begin {s : State} {data n : Nat} {buffer : List Byte} (h : s.mem.readBytes data n = some buffer) :
    (s.begin data n buffer).bufferIntact = true := (bufferIntact_iff _).mpr ⟨rfl, h⟩

/-- A change once recorded stays recorded, whatever the host places next. -/
theorem placeAll_disturbed (places : List (Nat × List Byte)) : ∀ {s : State}, s.disturbed = true → (s.placeAll places).disturbed = true := by
  induction places with
  | nil => exact id
  | cons w rest ih =>
    intro s h
    exact ih (s := s.place w.1 w.2) (by simp [State.place, h])

/-- Placing bytes leaves the sequencer where it is. -/
@[simp] theorem placeAll_phase (places : List (Nat × List Byte)) : ∀ s : State, (s.placeAll places).phase = s.phase := by
  induction places with
  | nil => exact fun _ => rfl
  | cons w rest ih => exact fun s => ih (s.place w.1 w.2)

/-- A running VALIDATE that P2 fails of is refused (R53, R130, R150). -/
theorem stepWith_broken (p : Params) {s : State} (hp : s.phase ≠ .idle) (h : s.bufferIntact = false) :
    stepWith p s = .refused .bufferChanged := if_pos ⟨hp, h⟩

/-- A running VALIDATE with its buffer intact does its next action. -/
theorem stepWith_intact (p : Params) {s : State} (h : s.bufferIntact = true) : stepWith p s = nextAction p s := by
  simp [stepWith, h]

/-- An idle machine takes a request, whatever the buffer holds. -/
theorem stepWith_idle (p : Params) {s : State} (h : s.phase = .idle) : stepWith p s = takeRequest p s := by
  simp [stepWith, nextAction, h]

theorem begin_next {p : Params} {data len : Nat} {s t : State} (h : beginValidate p data len s = .next t) :
    ∃ buffer, s.mem.readBytes data len = some buffer ∧ t = s.begin data len buffer := by
  simp only [beginValidate, preconditions] at h
  split at h
  · cases h
  · rename_i b hb
    split at hb
    · cases hb
    · split at hb
      · cases hb
      · split at hb
        · cases hb
        · cases hm : s.mem.readBytes data len with
          | none => simp [hm] at hb
          | some buffer =>
            simp only [hm, Except.ok.injEq] at hb
            subst hb
            exact ⟨_, rfl, (Host.Outcome.next.inj h).symm⟩

theorem issueBlock_next {s t : State} (h : issueBlock s = .next t) :
    ∃ lanes, s.mem.readBlock (s.base + s.pos) Config.blockSize = some lanes ∧ t = (s.afterCommand (s.dp.block lanes) none).advance := by
  simp only [issueBlock] at h
  cases hm : s.mem.readBlock (s.base + s.pos) Config.blockSize with
  | none => rw [hm] at h; cases h
  | some lanes =>
    rw [hm] at h
    exact ⟨lanes, rfl, (Host.Outcome.next.inj h).symm⟩

theorem issueInit_next {s t : State} (h : issueInit s = .next t) :
    t = (s.afterCommand (Datapath.zero Config.blockSize) none).withPhase .loop := (Host.Outcome.next.inj h).symm

theorem issueFinish_next {s t : State} (h : issueFinish s = .next t) :
    t = (s.afterCommand s.dp (some s.dp.response)).withPhase (.handoff s.dp.response) := (Host.Outcome.next.inj h).symm

theorem handoff_next {p : Params} {r : Response} {s t : State} (h : handoff p r s = .next t) :
    ∃ slice, s.mem.readBytes (s.base + (s.pos - r.la.toNat)) (s.len - s.pos + r.la.toNat) = some slice ∧
      t = s.conclude (s.pos - r.la.toNat) (s.len - s.pos + r.la.toNat) (!r.errAny && p.tail slice) := by
  simp only [handoff] at h
  cases hm : s.mem.readBytes (s.base + (s.pos - r.la.toNat)) (s.len - s.pos + r.la.toNat) with
  | none => rw [hm] at h; cases h
  | some slice =>
    rw [hm] at h
    exact ⟨slice, rfl, (Host.Outcome.next.inj h).symm⟩

/-- Everything a step of the machine can do when it answers a next state, with the guard of each case. -/
theorem stepWith_next {p : Params} {s t : State} (h : stepWith p s = .next t) :
    (s.phase = .idle ∧ s.port = [] ∧ t = s.afterCommand s.dp none) ∨
    (∃ w rest, s.phase = .idle ∧ s.port = .command w :: rest ∧
      t = (s.withPort rest).afterCommand (commandDatapath (decode w) s.dp) (commandResponse (decode w) s.dp)) ∨
    (∃ data len rest buffer, s.phase = .idle ∧ s.port = .validate data len :: rest ∧ s.mem.readBytes data len = some buffer ∧
      t = (s.withPort rest).begin data len buffer) ∨
    (∃ rest, s.phase = .idle ∧ s.port = .reset :: rest ∧ t = (s.withPort rest).hardwareReset) ∨
    (s.phase = .start ∧ s.bufferIntact = true ∧ t = (s.afterCommand (Datapath.zero Config.blockSize) none).withPhase .loop) ∨
    (∃ lanes, s.phase = .loop ∧ s.bufferIntact = true ∧ Config.blockSize ≤ s.len - s.pos ∧
      s.mem.readBlock (s.base + s.pos) Config.blockSize = some lanes ∧ t = (s.afterCommand (s.dp.block lanes) none).advance) ∨
    (s.phase = .loop ∧ s.bufferIntact = true ∧ s.len - s.pos < Config.blockSize ∧
      t = (s.afterCommand s.dp (some s.dp.response)).withPhase (.handoff s.dp.response)) ∨
    (∃ r slice, s.phase = .handoff r ∧ s.bufferIntact = true ∧
      s.mem.readBytes (s.base + (s.pos - r.la.toNat)) (s.len - s.pos + r.la.toNat) = some slice ∧
      t = s.conclude (s.pos - r.la.toNat) (s.len - s.pos + r.la.toNat) (!r.errAny && p.tail slice)) := by
  have intact : s.phase ≠ .idle → s.bufferIntact = true := by
    intro hp
    by_contra hb
    rw [stepWith, if_pos ⟨hp, by simpa using hb⟩] at h
    cases h
  have h' : nextAction p s = .next t := by
    by_cases hp : s.phase = .idle
    · simpa [stepWith, hp] using h
    · simpa [stepWith, hp, intact hp] using h
  simp only [nextAction] at h'
  split at h'
  · rename_i hph
    simp only [takeRequest] at h'
    split at h'
    · rename_i hpo
      exact .inl ⟨hph, hpo, exec_next h'⟩
    · rename_i w rest hpo
      exact .inr (.inl ⟨w, rest, hph, hpo, exec_next h'⟩)
    · rename_i data len rest hpo
      obtain ⟨buffer, hr, ht⟩ := begin_next h'
      exact .inr (.inr (.inl ⟨data, len, rest, buffer, hph, hpo, hr, ht⟩))
    · rename_i rest hpo
      exact .inr (.inr (.inr (.inl ⟨rest, hph, hpo, (Host.Outcome.next.inj h').symm⟩)))
  · rename_i hph
    exact .inr (.inr (.inr (.inr (.inl ⟨hph, intact (by simp [hph]), issueInit_next h'⟩))))
  · rename_i hph
    split at h'
    · rename_i hle
      obtain ⟨lanes, hr, ht⟩ := issueBlock_next h'
      exact .inr (.inr (.inr (.inr (.inr (.inl ⟨lanes, hph, intact (by simp [hph]), hle, hr, ht⟩)))))
    · rename_i hle
      exact .inr (.inr (.inr (.inr (.inr (.inr (.inl ⟨hph, intact (by simp [hph]), by omega, issueFinish_next h'⟩))))))
  · rename_i r hph
    obtain ⟨slice, hr, ht⟩ := handoff_next h'
    exact .inr (.inr (.inr (.inr (.inr (.inr (.inr ⟨r, slice, hph, intact (by simp [hph]), hr, ht⟩))))))

end Sys2Proof.Machine
end

