-- ==== Sys2Proof/Laws/Operands.lean ====
section
/-! SUPPORT. The laws of lanes: a lane of a vector built lane by lane, of a block of the buffer, and of an unpacked operand; and the
bytes of a part of a read. -/

namespace Sys2Proof.Machine

theorem lane_of_lt {n : Nat} (v : Vector Byte n) {i : Nat} (h : i < n) : lane v i = v[i] := by simp [lane, h]

theorem lane_ofFn {n : Nat} (f : Fin n → Byte) {i : Nat} (h : i < n) : lane (Vector.ofFn f) i = f ⟨i, h⟩ := by simp [lane, h]

/-- Lane `i` of the block at an offset is the byte at that offset plus `i` (R44). -/
theorem lane_blockAt (n : Nat) (buffer : List Byte) (pos : Nat) {i : Nat} (h : i < n) :
    lane (blockAt n buffer pos) i = buffer.getD (pos + i) 0 := by
  rw [blockAt, lane_ofFn _ h]

/-- Lane `i` of an unpacked operand is bits `8i+7 : 8i` (R65). -/
theorem lane_unpackLanes (n : Nat) (data : BitVec (8 * n)) {i : Nat} (h : i < n) :
    lane (unpackLanes n data) i = data.extractLsb' (8 * i) 8 := by
  rw [unpackLanes, lane_ofFn _ h]
  rfl

/-- Two vectors with the same lanes are equal. -/
theorem vector_ext_lane {n : Nat} (v w : Vector Byte n) (h : ∀ i < n, lane v i = lane w i) : v = w := by
  apply Vector.ext
  intro i hi
  simpa [lane_of_lt v hi, lane_of_lt w hi] using h i hi

/-- A part of a readable range reads as that part of its bytes. -/
theorem Memory.readBytes_slice (m : Memory) (a n k j : Nat) (bytes : List Byte) (h : m.readBytes a n = some bytes)
    (hk : k + j ≤ n) : m.readBytes (a + k) j = some ((bytes.drop k).take j) := by
  obtain ⟨hl, hr⟩ := (Memory.readBytes_eq_some m n a bytes).mp h
  refine (Memory.readBytes_eq_some m j (a + k) _).mpr ⟨by simp; omega, fun i hi => ?_⟩
  rw [Nat.add_assoc, hr (k + i) (by omega)]
  simp [List.getD_eq_getElem?_getD, hi]

/-- The block load of a readable range is the block of its bytes (R44, R119). -/
theorem Memory.readBlock_eq_blockAt (m : Memory) (a len pos n : Nat) (buffer : List Byte) (h : m.readBytes a len = some buffer)
    (hp : pos + n ≤ len) : m.readBlock (a + pos) n = some (blockAt n buffer pos) := by
  simp only [Memory.readBlock, Memory.readBytes_slice m a len pos n buffer h hp, Option.some.injEq]
  apply vector_ext_lane
  intro i hi
  rw [lane_ofFn _ hi, lane_blockAt n buffer pos hi]
  simp [List.getD_eq_getElem?_getD, hi]

end Sys2Proof.Machine
end

