-- ==== Sys2Proof/Laws/PerInstr.lean ====
section
/-! SUPPORT. Laws made per instruction: the family Opcode says that an encoded command's `cmd_op` is selected by the row of the
opcode table with its mnemonic and by no other row (R68, R69). -/

namespace Sys2Proof.Laws.Opcode

/-- The rows of the opcode table that select the encoded command are the one with its mnemonic. -/
def Statement (i : Instr) : Prop :=
  ∃ row ∈ opcodeTable, row.mnemonic = i.mnemonic ∧ ∀ r ∈ opcodeTable, r.selects (encode i).op = true ↔ r = row

theorem nop : Statement .nop := by unfold Statement; decide

theorem init : Statement .init := by unfold Statement; decide

theorem block (lanes : Vector Byte Config.blockSize) : Statement (.block lanes) := by
  refine ⟨{ mnemonic := "BLOCK", pattern := 0b10#2, mask := 0b11#2 }, by decide, rfl, ?_⟩
  show ∀ r ∈ opcodeTable, r.selects 0b10#2 = true ↔ _
  decide

theorem finish : Statement .finish := by unfold Statement; decide

end Sys2Proof.Laws.Opcode
end

