-- ==== Sys2Proof/Laws/Validate.lean ====
section
/-! SUPPORT. The laws of VALIDATE's parts: what the preconditions ask, one round of the block loop, blocks appended to blocks, and
concatenation of well-formed strings. -/

namespace Sys2Proof.Machine

/-- The preconditions answer a buffer exactly when P4, P3 and P1 hold, and it is the bytes in memory (R130). -/
theorem preconditions_ok (n : Nat) (p : Params) (m : Memory) (data len : Nat) (buffer : List Byte) :
    preconditions n p m data len = .ok buffer ↔
      blockSizeOk n = true ∧ p.lenOk len = true ∧ p.addrOk data len = true ∧ m.readBytes data len = some buffer := by
  unfold preconditions
  cases blockSizeOk n <;> cases p.lenOk len <;> cases p.addrOk data len <;> cases m.readBytes data len <;> simp

/-- A round of the loop when N bytes remain (R116). -/
theorem blockLoop_round (n : Nat) (buffer : List Byte) (rounds pos : Nat) (d : Datapath n) (h : n ≤ buffer.length - pos) :
    blockLoop n buffer (rounds + 1) pos d = blockLoop n buffer rounds (pos + n) (d.block (blockAt n buffer pos)) := by
  rw [blockLoop, if_pos h]

/-- The loop ends when fewer than N bytes remain (R116). -/
theorem blockLoop_end (n : Nat) (buffer : List Byte) (rounds pos : Nat) (d : Datapath n) (h : buffer.length - pos < n) :
    blockLoop n buffer rounds pos d = (pos, d) := by
  cases rounds with
  | zero => rfl
  | succ r => rw [blockLoop, if_neg (by omega)]

/-- Another block after blocks. -/
theorem afterBlocks_append {n : Nat} (blocks : List (Vector Byte n)) (v : Vector Byte n) :
    afterBlocks (blocks ++ [v]) = (afterBlocks blocks).block v := by
  simp [afterBlocks]

theorem region_append {n : Nat} (blocks more : List (Vector Byte n)) : region (blocks ++ more) = region blocks ++ region more := by
  simp [region]

theorem region_length {n : Nat} (blocks : List (Vector Byte n)) : (region blocks).length = n * blocks.length := by
  induction blocks with
  | nil => simp [region]
  | cons v rest ih => simp only [region, List.map_cons, List.flatten_cons, List.length_append] at *; simp [ih, Nat.mul_add, Nat.add_comm]

/-- A concatenation of well-formed strings is well formed. -/
theorem WF.append {s t : List Byte} (hs : WF s) (ht : WF t) : WF (s ++ t) := by
  obtain ⟨p, hp, rfl⟩ := hs
  obtain ⟨q, hq, rfl⟩ := ht
  refine ⟨p ++ q, fun x hx => ?_, by simp⟩
  rcases List.mem_append.mp hx with h | h
  · exact hp x h
  · exact hq x h

/-- One sequence is well formed. -/
theorem WF.single {q : List Byte} (h : isSequence q = true) : WF q := ⟨[q], by simpa using h, by simp⟩

end Sys2Proof.Machine
end

