-- ==== Sys2Proof/Tests/Slice0.lean ====
section
/-! SUPPORT. The model's own tests: decoding of words written out from R61, R62 and R68, the checks of WellFormed.lean refusing
ill-formed terms, small runs whose expected values are those of spec/95_test_vectors.md, and for every statement with hypotheses a
witness that meets them. -/

namespace Sys2Proof.Tests

open Sys2Proof Sys2Proof.Machine

/-! ### Small states -/

/-- A datapath whose counts are those of its bytes (R24). -/
def carried (n : Nat) (a b c : Byte) : Datapath n :=
  { pin1 := a, pin2 := b, pin3 := c, pcc1 := ccnt (highNibble a), pcc2 := ccnt (highNibble b), pcc3 := ccnt (highNibble c), eacc := 0 }

/-- The state after reset with another datapath. -/
def withDp (d : Datapath 32) : State := { State.reset with dp := d }

/-- A block of 31 bytes 41 and a last byte. -/
def asciiThen (b : Byte) : Vector Byte 32 := (Vector.replicate 32 0x41#8).set 31 b

/-- 31 bytes 41, then E2 82 AC 41: the buffer of program P5. -/
def bufferP5 : List Byte := List.replicate 31 0x41#8 ++ [0xE2#8, 0x82#8, 0xAC#8, 0x41#8]

/-- The state after reset with a buffer placed at address 100 and VALIDATE asked. -/
def asked (buffer : List Byte) : State := State.reset.submit 100 buffer

/-- A running VALIDATE of the buffer of P5 at a place of the pseudocode. -/
def running (d : Datapath 32) (pos : Nat) (ph : Phase) : State :=
  { State.reset with dp := d, base := 100, len := 35, pos := pos, phase := ph, snapshot := bufferP5,
                     mem := Memory.writeBytes [] 100 bufferP5 }

/-! ### Decoding: words written out from the encodings of R61, R62, R68 -/

-- cmd_op = 00, cmd_data ignored (R61)
theorem test_decode_nop : decode { op := 0b00#2, data := 0xFF#256 } = .nop := by decide
-- cmd_op = 01
theorem test_decode_init : decode { op := 0b01#2, data := 0x1234#256 } = .init := by decide
-- cmd_op = 11
theorem test_decode_finish : decode { op := 0b11#2, data := 0#256 } = .finish := by decide
-- cmd_op = 10, lane 0 the least significant byte: 95_test_vectors.md program P5, step 2
theorem test_decode_block : decode { op := 0b10#2, data := 0xE241414141414141414141414141414141414141414141414141414141414141#256 }
    = .block (asciiThen 0xE2#8) := by decide
-- program P1, N = 4: BLOCK 41 E2 82 AC has cmd_data 0xAC82E241
theorem test_unpack_p1 : unpackLanes 4 0xAC82E241#32 = #v[0x41#8, 0xE2#8, 0x82#8, 0xAC#8] := by decide
theorem test_pack_p1 : packLanes #v[0xF0#8, 0x9F#8, 0x98#8, 0x80#8] = 0x80989FF0#32 := by decide
theorem test_decode_block_table_word : decodeTableWord 8 0b10 = some (.block (Vector.replicate 32 0x00#8)) := by decide
theorem test_decode_short_image_rejected : decodeImage 1 1 = .error .opcodeCutShort := by decide
set_option exponentiation.threshold 400 in
theorem test_decode_long_image_rejected : decodeImage 300 (2 ^ 258) = .error .bitsBeyondPort := by decide
theorem test_opcode_rows_do_not_overlap :
    opcodeTable.Pairwise fun r q => r.pattern &&& q.mask ≠ q.pattern := by decide

/-! ### WellFormed: each check refuses an ill-formed term -/

theorem test_block_line_of_31_bytes_refused : (Line.block (List.replicate 31 0x41#8)).wellFormed = false := by decide
theorem test_block_line_of_33_bytes_refused : (Line.block (List.replicate 33 0x41#8)).wellFormed = false := by decide
theorem test_block_line_of_32_bytes_accepted : (Line.block (List.replicate 32 0x41#8)).wellFormed = true := by decide
theorem test_block_size_3_refused : blockSizeOk 3 = false ∧ blockSizeOk 4 = true := by decide
theorem test_length_beyond_width_refused :
    Params.lenOk { lenBits := some 3, addrBits := none, tail := fun _ => true } 8 = false ∧
    Params.lenOk { lenBits := some 3, addrBits := none, tail := fun _ => true } 7 = true := by decide
theorem test_address_beyond_width_refused :
    Params.addrOk { lenBits := none, addrBits := some 4, tail := fun _ => true } 10 7 = false ∧
    Params.addrOk { lenBits := none, addrBits := some 4, tail := fun _ => true } 10 6 = true := by decide

/-! ### The commands, one step each: expected values from 95_test_vectors.md and the worked examples -/

-- 2.1, second row: NOP leaves PIN = (E2, 41, 41), PCC = (2, 0, 0)
theorem test_nop : step ((withDp (carried 32 0xE2 0x41 0x41)).withFetchWord 8 0) = .next (withDp (carried 32 0xE2 0x41 0x41)) := by
  rfl
-- 2.2: INIT clears PIN = (FF, FF, FF) and EACC all ones; POS, LEN, BASE stay
theorem test_init : exec .init { withDp { carried 32 0xFF 0xFF 0xFF with eacc := BitVec.allOnes 32 } with pos := 64, len := 70, base := 9 }
    = .next { State.reset with pos := 64, len := 70, base := 9 } := by rfl
-- program P5, step 2: PIN = (E2, 41, 41), PCC = (2, 0, 0), EACC = 0
theorem test_block_p5 : (Datapath.zero 32).block (asciiThen 0xE2#8) = carried 32 0xE2 0x41 0x41 := by decide
-- program P6: BLOCK without INIT from PIN = (E2, 41, 41): EACC = 1100, lane 0 first
theorem test_block_p6 : ((carried 4 0xE2 0x41 0x41).block #v[0x41#8, 0x41#8, 0x41#8, 0x41#8]).eacc = 0b0011#4 := by decide
-- R106, worked example: PIN = (82, E2, 41) answers ERR_ANY = 0, LA = 2
theorem test_finish : exec .finish (withDp (carried 32 0x82 0xE2 0x41))
    = .next { withDp (carried 32 0x82 0xE2 0x41) with rsp := some { errAny := false, la := 2 } } := by rfl
-- 2.4: EACC with exactly bit 31 set gives ERR_ANY = 1; PIN = (41, C3, C3) gives LA = 2
theorem test_finish_last_lane : ({ carried 32 0x41 0xC3 0xC3 with eacc := 0x80000000#32 } : Datapath 32).response
    = { errAny := true, la := 2 } := by decide

/-! ### Inside BLOCK -/

-- 2.3, stage table, row "00 00 F4 | F4": index 15, err 1
theorem test_largest_index : (index (carried 4 0xF4 0x00 0x00) #v[0xF4#8, 0x41#8, 0x41#8, 0x41#8] 0).toNat = 15 := by decide
-- whole block N = 4 "out of range": idx 8 7 2 1, err 0 1 0 0
theorem test_out_of_range_block : ((Datapath.zero 4).block #v[0xF4#8, 0x90#8, 0x80#8, 0x80#8]).eacc = 0b0010#4 := by decide
-- R95: with c1 = 2 and c2 = 2 the OR is 2, not 4
theorem test_or_not_sum : combine 0 2 2 0 = 2#4 := by decide

/-! ### VALIDATE -/

-- program P4: the buffer 41 41 F0 9F 98 80 41 at N = 4 gives POS 4, TAIL_OFF 2, TAIL_LEN 5, VALID 1
theorem test_validate_p4 :
    validate 4 wellFormedScan [0x41#8, 0x41#8, 0xF0#8, 0x9F#8, 0x98#8, 0x80#8, 0x41#8]
      = { dp := carried 4 0x9F 0xF0 0x41, pos := 4, tailOff := 2, tailLen := 5, valid := true } := by decide
-- program P5: the handoff step gives TAIL_OFF 31, TAIL_LEN 4, VALID 1
theorem test_handoff_p5 :
    step (running (carried 32 0xE2 0x41 0x41) 32 (.handoff { errAny := false, la := 1 }))
      = .next { running (carried 32 0xE2 0x41 0x41) 32 .idle with tailOff := 31, tailLen := 4, valid := true, snapshot := [] } := by rfl
-- source §8 scenarios
theorem test_scan_scenarios : wellFormedScan [0xE2#8, 0x82#8, 0xAC#8] = true ∧ wellFormedScan [0xE2#8, 0x82#8] = false ∧
    wellFormedScan [0xF4#8, 0x90#8, 0x80#8, 0x80#8] = false ∧ wellFormedScan [0xC0#8, 0x80#8] = false ∧ wellFormedScan [] = true := by
  decide
-- R53, P2: the buffer is changed under a running VALIDATE
theorem test_changed_buffer_refused :
    step ((running (Datapath.zero 32) 0 .loop).place 110 [0x42#8]) = .refused .bufferChanged := by rfl
-- R53, P2: the change is undone before the next step, and the run is refused all the same
theorem test_undone_change_refused :
    step ((running (Datapath.zero 32) 0 .loop).placeAll [(110, [0x42#8]), (110, [0x41#8])]) = .refused .bufferChanged := by rfl

/-! ### The textual form -/

-- program P1, line 2, and a comment
theorem test_parse_block : parseLine ['B', 'L', 'O', 'C', 'K', ' ', '4', '1', ' ', 'E', '2', ' ', ';', 'x']
    = .ok (some (.block [0x41#8, 0xE2#8])) := by decide
theorem test_parse_unknown : parseLine ['H', 'A', 'L', 'T'] = .error .unknownCommand := by decide

/-! ### Reset -/

theorem test_reset_memory_wf : State.reset.mem.wf = true := by decide

/-! ### Witnesses for the hypotheses of the statements -/

theorem test_witness_SaturatingSubtraction : ∃ a k : Count, (k = 1 ∨ k = 2) ∧ a < k := ⟨1, 2, by decide⟩

theorem test_witness_EncodeOfDecode : ∃ w : CommandWord, w.op = 0b10#2 ∧ w.data ≠ 0 := ⟨{ op := 0b10#2, data := 5 }, by decide⟩

theorem test_witness_StepRunsDecodedCommand :
    (∃ (s : State) (w : CommandWord) (rest : List Request), s.phase = .idle ∧ s.port = .command w :: rest) ∧
    (∃ s : State, s.phase = .idle ∧ s.port = []) ∧ decodeTableWord 8 0b01 = some .init :=
  ⟨⟨{ State.reset with port := [.command (encode .finish)] }, encode .finish, [], rfl, rfl⟩, ⟨State.reset, rfl, rfl⟩, by decide⟩

theorem test_witness_DrivenCommandRuns : State.reset.phase = .idle ∧ State.reset.port = [] := ⟨rfl, rfl⟩

theorem test_witness_IdleHoldsState : State.reset.phase = .idle ∧ State.reset.port = [] := ⟨rfl, rfl⟩

/-- CommandFrame, AccumulatorIsSticky, CountsAgreeWithBytes and ResetIsInitWithZeroCursor: a command answers a next state from a state
whose counts agree with its bytes and in which a flag is set. -/
theorem test_witness_CommandFrame :
    ∃ (s t : State), exec (.block (asciiThen 0xFF#8)) s = .next t ∧ s.dp.Classified ∧ s.dp.eacc.getLsbD 31 = true :=
  ⟨withDp { carried 32 0xE2 0x41 0x41 with eacc := 0x80000000#32 }, _, rfl, ⟨rfl, rfl, rfl⟩, by decide⟩

theorem test_witness_CommandFrame_nop : ∃ s t : State, exec .nop s = .next t := ⟨State.reset, _, rfl⟩

theorem test_witness_CommandFrame_init : ∃ s t : State, exec .init s = .next t ∧ s.dp ≠ t.dp :=
  ⟨withDp (carried 32 0xE2 0x41 0x41), _, rfl, by decide⟩

theorem test_witness_CommandFrame_finish : ∃ s t : State, exec .finish s = .next t := ⟨State.reset, _, rfl⟩

theorem test_witness_OneStickyBitSuffices :
    ({ carried 32 0xE2 0x41 0x41 with eacc := 1 } : Datapath 32).SameButLanes { carried 32 0xE2 0x41 0x41 with eacc := 6 } :=
  ⟨rfl, rfl, rfl, rfl, rfl, rfl, by decide⟩

theorem test_witness_ContributionsOfLeadBytes : (carried 4 0x80 0xF0 0x41).Classified ∧ (0 : Nat) < 4 ∧ (3 : Nat) < 4 :=
  ⟨⟨rfl, rfl, rfl⟩, by decide, by decide⟩

theorem test_witness_IndexRange :
    lane #v[0xBF#8, 0xC0#8, 0x41#8, 0x41#8] 0 < 0xC0#8 ∧ 0xC0#8 ≤ lane #v[0xBF#8, 0xC0#8, 0x41#8, 0x41#8] 1 := by decide

/-- One lane for each clause of RangeTestForms, at the ends of its range; the last clause from a classified carried state. -/
theorem test_witness_RangeTestForms :
    ((8#4 : Index) ≤ 8#4 ∧ (9#4 : Index) ≤ 9#4) ∧
    (let v := #v[0xC1#8, 0xF5#8, 0x7F#8, 0x80#8, 0xBF#8, 0xC2#8, 0xF4#8]
     lane v 0 = 0xC1#8 ∧ 0xF5#8 ≤ lane v 1 ∧ lane v 2 < 0x80#8 ∧ (0x80#8 ≤ lane v 3 ∧ lane v 4 < 0xC0#8) ∧
     0xC2#8 ≤ lane v 5 ∧ lane v 6 ≤ 0xF4#8) ∧
    (carried 7 0xE2 0x41 0x41).Classified := by
  refine ⟨by decide, by decide, ⟨rfl, rfl, rfl⟩⟩

/-- A lane for each clause of CausesOfMalformation: the indices 8, 0, 1, 9 (as 10), 4, 6, 5 and 7, with a byte that is flagged there. -/
theorem test_witness_CausesOfMalformation :
    index (Datapath.zero 4) #v[0xC0#8, 0x80#8, 0x41#8, 0x80#8] 0 = 8#4 ∧
    index (Datapath.zero 4) #v[0xC0#8, 0x80#8, 0x41#8, 0x80#8] 3 = 0#4 ∧
    index (Datapath.zero 4) #v[0xE2#8, 0x82#8, 0x41#8, 0x41#8] 2 = 1#4 ∧
    index (Datapath.zero 4) #v[0xE2#8, 0xC3#8, 0x41#8, 0x41#8] 1 = 10#4 ∧
    index (Datapath.zero 4) #v[0xE0#8, 0x80#8, 0x80#8, 0x41#8] 1 = 4#4 ∧
    index (Datapath.zero 4) #v[0xF0#8, 0x8F#8, 0xBF#8, 0xBF#8] 1 = 6#4 ∧
    index (Datapath.zero 4) #v[0xED#8, 0xA0#8, 0x80#8, 0x41#8] 1 = 5#4 ∧
    index (Datapath.zero 4) #v[0xF4#8, 0x90#8, 0x80#8, 0x80#8] 1 = 7#4 := by decide

theorem test_witness_EveryStepKeepsInvariant : ∃ s t : State, s.Inv ∧ stepWith hardware s = .next t ∧ s.phase ≠ .idle :=
  ⟨running (carried 32 0xE2 0x41 0x41) 32 .loop, _,
    ⟨by decide, ⟨rfl, rfl, rfl⟩, by decide, by decide, fun h => absurd h (by decide), by decide⟩, rfl, by decide⟩

theorem test_witness_HostMovesKeepInvariant : (running (Datapath.zero 32) 0 .start).Inv :=
  ⟨by decide, ⟨rfl, rfl, rfl⟩, by decide, by decide, rfl, by decide⟩

theorem test_witness_RewindNeverPassesBufferStart :
    ∃ (s : State) (r : Response), s.Inv ∧ s.phase = .handoff r ∧ r.la = 1 :=
  ⟨running (carried 32 0xE2 0x41 0x41) 32 (.handoff { errAny := false, la := 1 }), { errAny := false, la := 1 },
    ⟨by decide, ⟨rfl, rfl, rfl⟩, by decide, by decide, ⟨by decide, by decide, fun h => absurd h (by decide)⟩, by decide⟩, rfl, rfl⟩

theorem test_witness_NoStepWritesMemory : ∃ s t : State, stepWith hardware s = .next t ∧ s.mem ≠ [] :=
  ⟨asked bufferP5, _, rfl, by decide⟩

theorem test_witness_Asks : (asked bufferP5).Asks hardware 100 bufferP5 [] :=
  ⟨by decide, by decide, by decide, rfl, rfl⟩

theorem test_witness_Asks_elsewhere :
    ({ withDp (carried 32 0xFF 0xFF 0xFF) with mem := Memory.writeBytes [] 7 bufferP5, port := [.validate 7 35, .reset] } : State).Asks
      hardware 7 bufferP5 [.reset] :=
  ⟨by decide, by decide, by decide, rfl, rfl⟩

theorem test_witness_Asks_empty : (asked []).Asks hardware 100 [] [] := ⟨by decide, by decide, by decide, rfl, rfl⟩

theorem test_witness_ValidateBegins :
    (running (carried 32 0xFF 0xFF 0xFF) 0 .start).phase = .start ∧ (running (carried 32 0xFF 0xFF 0xFF) 0 .start).bufferIntact = true :=
  ⟨rfl, by decide⟩

theorem test_witness_LoopStepRunsBlock : ∃ s : State, s.phase = .loop ∧ s.bufferIntact = true ∧ Config.blockSize ≤ s.len - s.pos :=
  ⟨running (Datapath.zero 32) 0 .loop, rfl, by decide, by decide⟩

theorem test_witness_LoopEndsWithFinish : ∃ s : State, s.phase = .loop ∧ s.bufferIntact = true ∧ s.len - s.pos < Config.blockSize :=
  ⟨running (carried 32 0xE2 0x41 0x41) 32 .loop, rfl, by decide, by decide⟩

theorem test_witness_HandoffOutputs : ∃ (s : State) (r : Response), s.phase = .handoff r ∧ s.bufferIntact = true ∧
    r.la.toNat ≤ s.pos ∧ s.pos ≤ s.len ∧ r.la = 3 :=
  ⟨running (carried 32 0x41 0x41 0xE2) 32 (.handoff { errAny := false, la := 3 }), { errAny := false, la := 3 }, rfl, by decide, by decide,
    by decide, rfl⟩

/-- Each clause of BrokenPreconditionsAreRefused. -/
theorem test_witness_BrokenPreconditionsAreRefused :
    (3 : Nat) < 4 ∧
    (∃ s : State, s.phase = .idle ∧ s.port = [.validate 10 8] ∧ (∃ j < 8, s.mem.read (10 + j) = none)) ∧
    Params.lenOk { lenBits := some 3, addrBits := some 4, tail := fun _ => true } 8 = false ∧
    Params.lenOk { lenBits := some 3, addrBits := some 4, tail := fun _ => true } 7 = true ∧
    Params.addrOk { lenBits := some 3, addrBits := some 4, tail := fun _ => true } 10 7 = false ∧
    (∃ s : State, s.phase = .idle ∧ s.port = [.validate 100 1] ∧ ∀ j < 1, s.mem.read (100 + j) ≠ none) ∧
    (∃ s : State, s.phase ≠ .idle ∧ s.mem.readBytes s.base s.len ≠ some s.snapshot) ∧
    (∃ s : State, s.phase ≠ .idle ∧ s.bufferIntact = true ∧
      (s.place 100 [0x42#8]).mem.readBytes s.base s.len ≠ some s.snapshot ∧
      (s.placeAll [(100, [0x42#8]), (100, [0x41#8])]).mem = s.mem) :=
  ⟨by decide, ⟨{ State.reset with port := [.validate 10 8] }, rfl, rfl, 0, by decide, rfl⟩, by decide, by decide, by decide,
    ⟨asked [0x41#8], by decide, by decide, by decide⟩,
    ⟨(running (Datapath.zero 32) 0 .loop).place 110 [0x42#8], by decide, by decide⟩,
    ⟨running (Datapath.zero 32) 0 .loop, by decide, by decide, by decide, by decide⟩⟩

/-- A placement next to the buffer (at the byte after its last one), in a running VALIDATE that meets the invariant. -/
theorem test_witness_UndisturbedBufferIsNeverRefused : ∃ s : State, s.Inv ∧ s.phase ≠ .idle ∧ s.bufferIntact = true ∧
    (∀ j < s.len, (s.place 135 [0x42#8]).mem.read (s.base + j) = s.mem.read (s.base + j)) ∧ (s.place 135 [0x42#8]).mem ≠ s.mem :=
  ⟨running (carried 32 0xE2 0x41 0x41) 32 .loop,
    ⟨by decide, ⟨rfl, rfl, rfl⟩, by decide, by decide, fun h => absurd h (by decide), by decide⟩, by decide, by decide, by decide, by decide⟩

theorem test_witness_ResetIsInitWithZeroCursor :
    (∃ s t : State, exec .init s = .next t) ∧ (∃ s : State, s.phase = .idle ∧ s.port = [.reset]) :=
  ⟨⟨State.reset, _, rfl⟩, ⟨{ State.reset with port := [.reset] }, rfl, rfl⟩⟩

/-- The block sizes of LoopCount, TailSliceInsideBuffer, ErrorsAreLocal (whose lane of the third clause is below N), NoFlagIffRegionBeginsWellFormed. -/
theorem test_witness_block_sizes : (4 : Nat) ≤ 4 ∧ 4 ≤ Config.blockSize := by decide

theorem test_witness_ShortBufferGoesToTail : ([0xE2#8, 0x82#8] : List Byte).length < 4 := by decide

theorem test_witness_RewindIsSufficient : (validate 4 wellFormedScan [0x41#8, 0x41#8, 0xC3#8, 0xA9#8]).dp.errAny = false ∧ 4 ≤ 4 := by decide

/-- ValidateDecidesWellFormed's second clause: a host's call that meets P1, P3 and P4 at N = 4. -/
theorem test_witness_ValidateDecidesWellFormed :
    ∃ v, validateAt 4 hardware (Memory.writeBytes [] 10 [0x41#8, 0x41#8, 0xC3#8, 0xA9#8]) 10 4 = .ok v ∧ v.valid = true :=
  ⟨_, rfl, by decide⟩

/-- ValidateDecidesWellFormed, AlternativeLeadTestSameVerdict, TestableProperties: a tail validator that meets the contract exists. -/
theorem test_witness_TailContract : ∃ tail : List Byte → Bool, TailContract tail :=
  ⟨fun s => @decide (WF s) (Classical.propDecidable _), fun s => by simp⟩

/-- The straddle clause of TestableProperties at k = 1, N = 4. -/
theorem test_witness_TestableProperties :
    WF [0x41#8, 0x41#8, 0x41#8] ∧ WF [] ∧ isSequence [0xC3#8, 0xA9#8] = true ∧ ([0x41#8, 0x41#8, 0x41#8] : List Byte).length + 1 = 4 :=
  ⟨⟨[[0x41#8], [0x41#8], [0x41#8]], by decide, rfl⟩, ⟨[], by decide, rfl⟩, by decide, rfl⟩

theorem test_witness_SubmittedBufferIsJudged : State.reset.phase = .idle ∧ State.reset.port = [] := ⟨rfl, rfl⟩

end Sys2Proof.Tests
end

section
/-! SUPPORT. The packing of lanes onto `cmd_data` is undone by unpacking (R45, R62, R65), so decoding undoes encoding. -/

namespace Sys2Proof

/-- Packed bytes overflow no port that has 8 bits for each of them. -/
theorem packNat_lt (bytes : List Byte) : packNat bytes < 2 ^ (8 * bytes.length) := by
  induction bytes with
  | nil => simp [packNat]
  | cons b rest ih =>
    have hb : b.toNat < 256 := b.isLt
    rw [packNat, List.length_cons, Nat.mul_succ, Nat.pow_add]
    omega

/-- Digit `i` in base 256 of packed bytes is byte `i`. -/
theorem packNat_digit (bytes : List Byte) (i : Nat) : packNat bytes / 2 ^ (8 * i) % 256 = (bytes.getD i 0).toNat := by
  induction bytes generalizing i with
  | nil => simp [packNat]
  | cons b rest ih =>
    have hb : b.toNat < 256 := b.isLt
    cases i with
    | zero => simp only [packNat, List.getD_cons_zero, Nat.mul_zero, Nat.pow_zero]; omega
    | succ i =>
      have hshift : packNat (b :: rest) / 256 = packNat rest := by rw [packNat]; omega
      rw [Nat.mul_succ, Nat.add_comm, Nat.pow_add, ← Nat.div_div_eq_div_mul, hshift, ih, List.getD_cons_succ]

/-- Lane `i` of packed lanes is lane `i` (R62). -/
theorem dataLane_packLanes {n : Nat} (lanes : Vector Byte n) {i : Nat} (h : i < n) : dataLane (packLanes lanes) i = lanes[i] := by
  have hlt : packNat lanes.toList < 2 ^ (8 * n) := by simpa using packNat_lt lanes.toList
  apply BitVec.eq_of_toNat_eq
  rw [dataLane, packLanes, BitVec.extractLsb'_toNat, BitVec.toNat_ofNat, Nat.mod_eq_of_lt hlt, Nat.shiftRight_eq_div_pow,
    packNat_digit]
  simp [List.getD_eq_getElem?_getD, h]

/-- Unpacking gives back packed lanes, at every block size. -/
@[simp] theorem unpackLanes_packLanes (n : Nat) (lanes : Vector Byte n) : unpackLanes n (packLanes lanes) = lanes := by
  apply Vector.ext
  intro i hi
  simp [unpackLanes, dataLane_packLanes lanes hi]

/-- Decoding an encoded command gives it back (R61, R62, R68). -/
@[simp] theorem decode_encode (i : Instr) : decode (encode i) = i := by
  cases i with
  | nop => rfl
  | init => rfl
  | block lanes => simp [decode, encode, Instr.opcode, Instr.operand]
  | finish => rfl

/-- A decodable image decodes as the command word of its bits. -/
theorem decode_ofImage_of_decodeTableWord {nbits w : Nat} {i : Instr} (h : decodeTableWord nbits w = some i) :
    decode (CommandWord.ofImage (w % 2 ^ nbits)) = i := by
  unfold decodeTableWord decodeImage at h
  split_ifs at h
  exact Option.some.inj h

end Sys2Proof
end

section
/-! PROOFS. What a step of an idle machine runs: the command the port shows. -/

namespace Sys2Proof.Machine

/-- A state whose port is written back is that state. -/
theorem State.withPort_of_port_eq {s : State} {rest : List Request} (h : s.port = rest) : s.withPort rest = s := by
  subst h; rfl

/-- An idle machine with nothing presented runs the idle code NOP (R78, R166). -/
theorem stepWith_idle_empty (p : Params) {s : State} (hidle : s.phase = .idle) (hport : s.port = []) :
    stepWith p s = exec .nop s := by
  rw [stepWith_idle p hidle, takeRequest, hport]

/-- An idle machine runs its oldest request, a command, on the state without it (R9). -/
theorem stepWith_idle_command (p : Params) {s : State} {w : CommandWord} {rest : List Request} (hidle : s.phase = .idle)
    (hport : s.port = .command w :: rest) : stepWith p s = exec (decode w) (s.withPort rest) := by
  rw [stepWith_idle p hidle, takeRequest, hport]

/-- A command word placed for the next step is taken by it, and leaves the port as it was. -/
theorem step_withFetchWord (s : State) (nbits w : Nat) :
    step (s.withFetchWord nbits w) = exec (decode (CommandWord.ofImage (w % 2 ^ nbits))) (s.withPhase .idle) :=
  stepWith_idle_command hardware rfl rfl

/-- Settles O12, one clause from each law of what an idle machine takes. -/
theorem stepRunsDecodedCommand : Obligations.StepRunsDecodedCommand := by
  refine ⟨fun p s w rest hidle hport => stepWith_idle_command p hidle hport,
    fun p s hidle hport => stepWith_idle_empty p hidle hport, fun s nbits w i hdecode => ?_, fun s => rfl⟩
  rw [step_withFetchWord, decode_ofImage_of_decodeTableWord hdecode]

/-- Settles O13: the presented word is the encoded command, which decodes to the command. -/
theorem drivenCommandRuns : Obligations.DrivenCommandRuns := by
  intro p s i hidle hport
  have hdriven : (s.drive i).port = [.command (encode i)] := by simp [State.drive, State.present, hport]
  have htaken : (s.drive i).withPort [] = s := State.withPort_of_port_eq hport
  rw [stepWith_idle_command p (s := s.drive i) hidle hdriven, decode_encode, htaken]

end Sys2Proof.Machine
end

section
/-! PROOFS. What the outside can do keeps the invariant of the machine: one law for each move. -/

namespace Sys2Proof.Machine

/-- The zero state of the datapath agrees with the tables (R24, R25). -/
theorem Datapath.zero_classified (n : Nat) : (Datapath.zero n).Classified := by
  have hcount : 0#2 = ccnt (highNibble 0x00#8) := by decide
  exact ⟨hcount, hcount, hcount⟩

/-- What the port holds is no part of the invariant. -/
theorem State.Inv.withPort {s : State} (h : s.Inv) (rest : List Request) : (s.withPort rest).Inv :=
  ⟨h.mem, h.classified, h.aligned, h.bounded, h.phase, h.watched⟩

theorem State.Inv.present {s : State} (h : s.Inv) (r : Request) : (s.present r).Inv := h.withPort _

/-- An idle sequencer is a consistent place, and no buffer is watched there. -/
theorem State.Inv.withPhase_idle {s : State} (h : s.Inv) : (s.withPhase .idle).Inv where
  mem := h.mem
  classified := h.classified
  aligned := h.aligned
  bounded := h.bounded
  phase := trivial
  watched := fun hrunning => absurd rfl hrunning

theorem State.Inv.withFetchWord {s : State} (h : s.Inv) (nbits w : Nat) : (s.withFetchWord nbits w).Inv :=
  h.withPhase_idle.withPort _

/-- Which bytes the buffer is compared with does not depend on the memory in place. -/
@[simp] theorem State.withMem_holdsBuffer (s : State) (m m' : Memory) : (s.withMem m).holdsBuffer m' = s.holdsBuffer m' := rfl

/-- A change of memory keeps the invariant whatever the bytes: a running VALIDATE that is not disturbed after it still holds its
buffer, for the change would have been recorded (P2, R53). -/
theorem State.Inv.withMem {s : State} (h : s.Inv) {m : Memory} (hm : m.wf = true) : (s.withMem m).Inv where
  mem := hm
  classified := h.classified
  aligned := h.aligned
  bounded := h.bounded
  phase := h.phase
  watched := by
    intro hrunning hundisturbed
    have hrecorded : (decide (s.phase ≠ .idle) && !s.holdsBuffer m) = false := (Bool.or_eq_false_iff.mp hundisturbed).2
    simpa [show s.phase ≠ .idle from hrunning] using hrecorded

theorem State.Inv.place {s : State} (h : s.Inv) (addr : Nat) (bytes : List Byte) : (s.place addr bytes).Inv :=
  h.withMem (Memory.writeBytes_wf bytes s.mem addr h.mem)

theorem State.Inv.submit {s : State} (h : s.Inv) (addr : Nat) (buffer : List Byte) : (s.submit addr buffer).Inv :=
  (h.place addr buffer).present _

/-- Hardware reset establishes all of the invariant but the memory's canonical form, which it keeps (R152). -/
theorem State.hardwareReset_inv {s : State} (hm : s.mem.wf = true) : s.hardwareReset.Inv where
  mem := hm
  classified := Datapath.zero_classified _
  aligned := rfl
  bounded := Nat.le_refl 0
  phase := trivial
  watched := fun hrunning => absurd rfl hrunning

/-- Settles O35, one conjunct from the law of each move. -/
theorem hostMovesKeepInvariant : Obligations.HostMovesKeepInvariant :=
  fun _ addr bytes r nbits w h =>
    ⟨h.place addr bytes, h.present r, h.submit addr bytes, State.hardwareReset_inv h.mem, h.withFetchWord nbits w⟩

end Sys2Proof.Machine
end

section
/-! PROOFS. Every step keeps the invariant of the machine: what a command keeps, what each place of the sequencer asks, and one law for
each thing a step can do. -/

namespace Sys2Proof.Machine

/-- BLOCK carries the counts of the very bytes it carries (R80, R93). -/
theorem Datapath.block_classified {n : Nat} (d : Datapath n) (v : Vector Byte n) : (d.block v).Classified := ⟨rfl, rfl, rfl⟩

/-- Every command keeps the agreement of the counts with the bytes (R24). -/
theorem commandDatapath_classified (i : Instr) {d : Datapath Config.blockSize} (h : d.Classified) :
    (commandDatapath i d).Classified := by
  cases i with
  | nop => exact h
  | init => exact Datapath.zero_classified _
  | block lanes => exact Datapath.block_classified d lanes
  | finish => exact h

theorem State.phaseInv_of_idle {s : State} (h : s.phase = .idle) : s.PhaseInv := by simp [State.PhaseInv, h]

theorem State.phaseInv_start {s : State} (h : s.phase = .start) : s.PhaseInv ↔ s.pos = 0 := by simp [State.PhaseInv, h]

theorem State.phaseInv_loop {s : State} (h : s.phase = .loop) :
    s.PhaseInv ↔ (s.pos = 0 → s.dp = Datapath.zero Config.blockSize) := by simp [State.PhaseInv, h]

theorem State.phaseInv_handoff {s : State} {r : Response} (h : s.phase = .handoff r) :
    s.PhaseInv ↔ r = s.dp.response ∧ s.len - s.pos < Config.blockSize ∧ (s.pos = 0 → s.dp = Datapath.zero Config.blockSize) := by
  simp [State.PhaseInv, h]

/-- A command of the port: the sequencer is idle, so nothing but R24 is asked of the datapath it leaves. -/
theorem State.Inv.afterCommand_of_idle {s : State} (h : s.Inv) (hidle : s.phase = .idle) {d : Datapath Config.blockSize}
    (hd : d.Classified) (r : Option Response) : (s.afterCommand d r).Inv where
  mem := h.mem
  classified := hd
  aligned := h.aligned
  bounded := h.bounded
  phase := State.phaseInv_of_idle hidle
  watched := fun hrunning => absurd hidle hrunning

/-- VALIDATE begins at cursor 0, with the watched bytes those of the buffer in memory (R157, R53). -/
theorem State.Inv.begin {s : State} (h : s.Inv) {data len : Nat} {buffer : List Byte}
    (hbuffer : s.mem.readBytes data len = some buffer) : (s.begin data len buffer).Inv where
  mem := h.mem
  classified := h.classified
  aligned := Nat.zero_mod _
  bounded := Nat.zero_le _
  phase := (State.phaseInv_start rfl).mpr rfl
  watched := fun _ _ => by simp [State.holdsBuffer, hbuffer]

/-- The INIT of VALIDATE brings the loop to its first test with the zero state (R114). -/
theorem State.Inv.issueInit {s : State} (h : s.Inv) (hstart : s.phase = .start) :
    ((s.afterCommand (Datapath.zero Config.blockSize) none).withPhase .loop).Inv where
  mem := h.mem
  classified := Datapath.zero_classified _
  aligned := h.aligned
  bounded := h.bounded
  phase := (State.phaseInv_loop rfl).mpr fun _ => rfl
  watched := fun _ => h.watched (by simp [hstart])

/-- A round of the loop: the guard `LEN - POS >= N` keeps the advanced cursor inside the buffer, and that cursor is not 0 (R116). -/
theorem State.Inv.issueBlock {s : State} (h : s.Inv) (hloop : s.phase = .loop) (hguard : Config.blockSize ≤ s.len - s.pos)
    (lanes : Vector Byte Config.blockSize) : ((s.afterCommand (s.dp.block lanes) none).advance).Inv where
  mem := h.mem
  classified := Datapath.block_classified s.dp lanes
  aligned := by simpa using h.aligned
  bounded := by
    have hpos : s.pos ≤ s.len := h.bounded
    simp only [State.advance_pos, State.afterCommand_pos, State.advance_len, State.afterCommand_len]
    omega
  phase := (State.phaseInv_loop (s := (s.afterCommand (s.dp.block lanes) none).advance) hloop).mpr fun hzero =>
    absurd hzero (Nat.succ_ne_zero _)
  watched := fun _ => h.watched (by simp [hloop])

/-- The loop's exit: the answer kept for the handoff is the datapath's, and fewer than N bytes remain (R106, R116). -/
theorem State.Inv.issueFinish {s : State} (h : s.Inv) (hloop : s.phase = .loop) (hguard : s.len - s.pos < Config.blockSize) :
    ((s.afterCommand s.dp (some s.dp.response)).withPhase (.handoff s.dp.response)).Inv where
  mem := h.mem
  classified := h.classified
  aligned := h.aligned
  bounded := h.bounded
  phase := (State.phaseInv_handoff rfl).mpr ⟨rfl, hguard, (State.phaseInv_loop hloop).mp h.phase⟩
  watched := fun _ => h.watched (by simp [hloop])

/-- The end of VALIDATE leaves an idle sequencer, which watches no buffer (R123). -/
theorem State.Inv.conclude {s : State} (h : s.Inv) (off size : Nat) (verdict : Bool) : (s.conclude off size verdict).Inv where
  mem := h.mem
  classified := h.classified
  aligned := h.aligned
  bounded := h.bounded
  phase := State.phaseInv_of_idle rfl
  watched := fun hrunning => absurd rfl hrunning

/-- Settles O34, one law for each case of what a step can do. -/
theorem everyStepKeepsInvariant : Obligations.EveryStepKeepsInvariant := by
  intro p s t h hstep
  rcases stepWith_next hstep with ⟨hidle, -, rfl⟩ | ⟨w, rest, hidle, -, rfl⟩ | ⟨data, len, rest, buffer, -, -, hbuffer, rfl⟩ |
    ⟨rest, -, -, rfl⟩ | ⟨hstart, -, rfl⟩ | ⟨lanes, hloop, -, hguard, -, rfl⟩ | ⟨hloop, -, hguard, rfl⟩ |
    ⟨r, slice, -, -, -, rfl⟩
  · exact h.afterCommand_of_idle hidle h.classified none
  · exact (h.withPort rest).afterCommand_of_idle hidle (commandDatapath_classified (decode w) h.classified) _
  · exact (h.withPort rest).begin hbuffer
  · exact State.hardwareReset_inv h.mem
  · exact h.issueInit hstart
  · exact h.issueBlock hloop hguard lanes
  · exact h.issueFinish hloop hguard
  · exact h.conclude _ _ _

/-- Settles O33: the state after reset is what hardware reset makes of it, on an empty memory. -/
theorem invariantAtReset : Obligations.InvariantAtReset := State.hardwareReset_inv (s := State.reset) rfl

/-- Settles O32, the last clause by the law of each command's datapath. -/
theorem countsAgreeWithBytes : Obligations.CountsAgreeWithBytes := by
  refine ⟨Datapath.zero_classified _, fun s t hexec => ?_, fun i s t h hexec => ?_⟩
  · rw [exec_next hexec]
    exact Datapath.zero_classified _
  · rw [exec_next hexec]
    exact commandDatapath_classified i h

end Sys2Proof.Machine
end

section
/-! PROOFS. What a command changes and what it leaves: the frame of the commands, and EACC as a sticky register of which the answers
show one bit. -/

namespace Sys2Proof.Machine

/-- NOP and FINISH leave the whole datapath (R78, R106). -/
theorem commandDatapath_eq_self {i : Instr} (h : i = .nop ∨ i = .finish) (d : Datapath Config.blockSize) :
    commandDatapath i d = d := by
  rcases h with rfl | rfl <;> rfl

/-- A flag once set stays set under every command but INIT (R27). -/
theorem commandDatapath_eacc_of_set {i : Instr} (hi : i ≠ .init) {d : Datapath Config.blockSize} {k : Nat}
    (hset : d.eacc.getLsbD k = true) : (commandDatapath i d).eacc.getLsbD k = true := by
  cases i with
  | nop => exact hset
  | init => exact absurd rfl hi
  | block lanes => simp [commandDatapath, hset]
  | finish => exact hset

/-- Settles O23, from the datapath each command leaves. -/
theorem accumulatorIsSticky : Obligations.AccumulatorIsSticky := by
  intro i s t hexec
  rw [exec_next hexec]
  refine ⟨fun hi _ _ hset => commandDatapath_eacc_of_set hi hset, fun hi => ?_, fun hi => ?_⟩
  · simp [commandDatapath_eq_self hi]
  · subst hi; rfl

/-- Settles O22: a command changes the datapath and the response only, and NOP and FINISH keep the datapath. -/
theorem commandFrame : Obligations.CommandFrame := by
  intro i s t hexec
  rw [exec_next hexec]
  exact ⟨fun _ => rfl, rfl, rfl, rfl, rfl, rfl, rfl, rfl, rfl, rfl, fun hi => commandDatapath_eq_self hi s.dp⟩

/-- The flag of a lane is computed from the carried bytes and counts; EACC is not read (R142). -/
theorem laneError_with_eacc {n : Nat} (d : Datapath n) (acc : BitVec n) (v : Vector Byte n) (i : Nat) :
    laneError { d with eacc := acc } v i = laneError d v i := by
  have hbytes (j : Int) : xin { d with eacc := acc } v j = xin d v j := rfl
  have hcounts (j : Int) : xcc { d with eacc := acc } v j = xcc d v j := rfl
  simp only [laneError, index, index0, laneCorr, c1, c2, c3, hbytes, hcounts]

section
variable {n : Nat} {d e : Datapath n}

/-- Datapaths that agree on the carried state differ in EACC at most. -/
theorem Datapath.SameButLanes.eq_with_eacc (h : d.SameButLanes e) : d = { e with eacc := d.eacc } := by
  obtain ⟨hpin1, hpin2, hpin3, hpcc1, hpcc2, hpcc3, -⟩ := h
  rw [← hpin1, ← hpin2, ← hpin3, ← hpcc1, ← hpcc2, ← hpcc3]

theorem Datapath.SameButLanes.errAny_eq (h : d.SameButLanes e) : d.errAny = e.errAny := by
  obtain ⟨-, -, -, -, -, -, herr⟩ := h
  exact herr

theorem Datapath.SameButLanes.refl (d : Datapath n) : d.SameButLanes d := ⟨rfl, rfl, rfl, rfl, rfl, rfl, rfl⟩

/-- FINISH answers the same (R107, R108). -/
theorem Datapath.SameButLanes.response_eq (h : d.SameButLanes e) : d.response = e.response := by
  have hla : d.lookahead = e.lookahead := by rw [h.eq_with_eacc]; rfl
  rw [Datapath.response, Datapath.response, h.errAny_eq, hla]

/-- BLOCK keeps the agreement: both raise the same flags, and ERR_ANY shows of them only whether there is one (R92). -/
theorem Datapath.SameButLanes.block (h : d.SameButLanes e) (v : Vector Byte n) : (d.block v).SameButLanes (e.block v) := by
  have hflag (i : Nat) : laneError d v i = laneError e v i := by rw [h.eq_with_eacc, laneError_with_eacc]
  have herr : (d.block v).errAny = (e.block v).errAny := by
    rw [Bool.eq_iff_iff, block_errAny_iff, block_errAny_iff, h.errAny_eq]
    simp only [hflag]
  exact ⟨rfl, rfl, rfl, rfl, rfl, rfl, herr⟩

end

/-- Every command keeps the agreement of two datapaths. -/
theorem Datapath.SameButLanes.commandDatapath {d e : Datapath Config.blockSize} (h : d.SameButLanes e) (i : Instr) :
    (commandDatapath i d).SameButLanes (commandDatapath i e) := by
  cases i with
  | nop => exact h
  | init => exact .refl _
  | block lanes => exact h.block lanes
  | finish => exact h

/-- Every command answers the same from datapaths that agree. -/
theorem Datapath.SameButLanes.commandResponse_eq {d e : Datapath Config.blockSize} (h : d.SameButLanes e) (i : Instr) :
    commandResponse i d = commandResponse i e := by
  cases i with
  | nop => rfl
  | init => rfl
  | block lanes => rfl
  | finish => exact congrArg some h.response_eq

/-- A run of commands: the first command's response, then the run of the rest. -/
theorem runCommands_cons {i : Instr} {rest : List Instr} {s u : State} {answers : List (Option Response)}
    (h : runCommands rest (s.afterCommand (commandDatapath i s.dp) (commandResponse i s.dp)) = some (answers, u)) :
    runCommands (i :: rest) s = some (commandResponse i s.dp :: answers, u) := by
  simp [runCommands, exec_eq, h]

/-- Settles O24, by induction on the commands: each one answers the same and keeps the agreement. -/
theorem oneStickyBitSuffices : Obligations.OneStickyBitSuffices := by
  intro commands
  induction commands with
  | nil => exact fun s t h => ⟨[], s, t, rfl, rfl, h⟩
  | cons i rest ih =>
    intro s t h
    obtain ⟨answers, u, v, hu, hv, hagree⟩ := ih
      (s.afterCommand (commandDatapath i s.dp) (commandResponse i s.dp))
      (t.afterCommand (commandDatapath i t.dp) (commandResponse i t.dp)) (h.commandDatapath i)
    refine ⟨commandResponse i s.dp :: answers, u, v, runCommands_cons hu, ?_, hagree⟩
    rw [h.commandResponse_eq i]
    exact runCommands_cons hv

end Sys2Proof.Machine
end

section
/-! PROOFS. The constant tables and the zero state: facts about single entries, over the sixteen indices. -/

namespace Sys2Proof.Machine

/-- The sentinels' minimum is the greatest signed byte (R19). -/
theorem rmin_sentinel : ∀ {i : Index}, 9#4 ≤ i → rmin i = 0x7F#8 := by decide

/-- The sentinels' maximum is the least signed byte (R19). -/
theorem rmax_sentinel : ∀ {i : Index}, 9#4 ≤ i → rmax i = 0x80#8 := by decide

theorem s8_sentinel_min : s8 0x7F#8 = 127 := rfl

theorem s8_sentinel_max : s8 0x80#8 = -128 := rfl

/-- No byte passes the range test at a sentinel: it would have to be at least 127 and at most -128 (R19, R97). -/
theorem rangeFail_sentinel {i : Index} (h : 9#4 ≤ i) (b : Byte) : rangeFail b i = true := by
  rw [rangeFail, rmin_sentinel h, rmax_sentinel h, s8_sentinel_min, s8_sentinel_max, Bool.or_eq_true, decide_eq_true_eq,
    decide_eq_true_eq]
  omega

/-- The bytes with a correction are the four special lead bytes (R20, R67). -/
theorem corr_ne_zero_iff (b : Byte) : corr b ≠ 0 ↔ b = 0xE0#8 ∨ b = 0xED#8 ∨ b = 0xF0#8 ∨ b = 0xF4#8 := by
  unfold corr
  split_ifs with hE0 hED hF0 hF4
  · simp [hE0]
  · simp [hED]
  · simp [hF0]
  · simp [hF4]
  · simp [hE0, hED, hF0, hF4]

/-- Settles O1: reset leaves the zero state of the datapath, whose outputs are 0. -/
theorem resetLeavesEveryRegisterZero : Obligations.ResetLeavesEveryRegisterZero :=
  ⟨rfl, rfl, rfl, rfl, rfl, rfl, fun _ _ => BitVec.getLsbD_zero, rfl, rfl, rfl, zero_errAny _, rfl, rfl, rfl, rfl⟩

/-- Settles O2, each range of nibbles by its entries. -/
theorem countAndBaseTables : Obligations.CountAndBaseTables :=
  ⟨by decide, rfl, rfl, rfl, rfl, by decide⟩

/-- Settles O3: the rows are read off, and the sentinels fail every byte. -/
theorem rangeTablesAndSentinels : Obligations.RangeTablesAndSentinels :=
  ⟨rfl, rfl, s8_sentinel_min, s8_sentinel_max, fun _ b h => rangeFail_sentinel h b⟩

/-- Settles O4: the four entries are read off, and no other byte has a correction. -/
theorem correctionConstants : Obligations.CorrectionConstants := ⟨rfl, rfl, rfl, rfl, corr_ne_zero_iff⟩

/-- Settles O5: the real entries one by one, the sentinels by their two bounds. -/
theorem tableInvariants : Obligations.TableInvariants := by
  have hbase : ∀ i : Index, rbase i = 0 ∨ rbase i = 8 := by decide
  refine ⟨fun i => ⟨Nat.le_of_lt_succ (ccnt i).isLt, hbase i⟩, by decide, fun i h => ?_⟩
  rw [rmin_sentinel h, rmax_sentinel h, s8_sentinel_min, s8_sentinel_max]
  decide

end Sys2Proof.Machine
end

section
/-! PROOFS. A running VALIDATE and its buffer: what the host's placements do to the watch of P2, what the bytes kept at the start say
of memory, and the next state of each place of the sequencer while P2 holds. -/

namespace Sys2Proof.Machine

/-- Memories that agree on a range answer the same read of it. -/
theorem Memory.readBytes_congr {m m' : Memory} {a n : Nat} (h : ∀ j < n, m'.read (a + j) = m.read (a + j)) :
    m'.readBytes a n = m.readBytes a n := by
  cases hread : m.readBytes a n with
  | none =>
    obtain ⟨j, hj, hnone⟩ := (Memory.readBytes_eq_none m a n).mp hread
    exact (Memory.readBytes_eq_none m' a n).mpr ⟨j, hj, by rw [h j hj, hnone]⟩
  | some bytes =>
    obtain ⟨hlength, hbytes⟩ := (Memory.readBytes_eq_some m n a bytes).mp hread
    exact (Memory.readBytes_eq_some m' n a bytes).mpr ⟨hlength, fun j hj => by rw [h j hj, hbytes j hj]⟩

/-- A change of memory that leaves the buffer as it began keeps P2. -/
theorem State.withMem_bufferIntact {s : State} {m : Memory} (h : s.bufferIntact = true) (hm : s.holdsBuffer m = true) :
    (s.withMem m).bufferIntact = true := by
  obtain ⟨hundisturbed, -⟩ := (bufferIntact_iff s).mp h
  simp [State.bufferIntact, hundisturbed, hm]

/-- A change of the buffer of a running VALIDATE is recorded (R53). -/
theorem State.withMem_disturbed_of_changed {s : State} {m : Memory} (hrunning : s.phase ≠ .idle) (hm : s.holdsBuffer m = false) :
    (s.withMem m).disturbed = true := by
  simp [hrunning, hm]

/-- A recorded change breaks P2, whatever memory holds now. -/
theorem State.bufferIntact_of_disturbed {s : State} (h : s.disturbed = true) : s.bufferIntact = false := by
  simp [State.bufferIntact, h]

/-- A buffer that does not hold its first bytes breaks P2, recorded or not. -/
theorem State.bufferIntact_of_changed {s : State} (h : s.holdsBuffer s.mem = false) : s.bufferIntact = false := by
  simp [State.bufferIntact, h]

theorem State.holdsBuffer_eq_false {s : State} {m : Memory} (h : m.readBytes s.base s.len ≠ some s.snapshot) :
    s.holdsBuffer m = false := by
  simpa [State.holdsBuffer] using h

/-- While P2 holds and N bytes remain, the block load reads the next N bytes of the buffer as it began (R119). -/
theorem State.readBlock_of_intact {s : State} (h : s.bufferIntact = true) (hguard : Config.blockSize ≤ s.len - s.pos) :
    s.mem.readBlock (s.base + s.pos) Config.blockSize = some (blockAt Config.blockSize s.snapshot s.pos) := by
  obtain ⟨-, hbuffer⟩ := (bufferIntact_iff s).mp h
  have hblock : 0 < Config.blockSize := by decide
  have hinside : s.pos + Config.blockSize ≤ s.len := by omega
  exact Memory.readBlock_eq_blockAt s.mem s.base s.len s.pos Config.blockSize s.snapshot hbuffer hinside

/-- INIT comes first (R114). -/
theorem stepWith_start (p : Params) {s : State} (hstart : s.phase = .start) (h : s.bufferIntact = true) :
    stepWith p s = .next ((s.afterCommand (Datapath.zero Config.blockSize) none).withPhase .loop) := by
  rw [stepWith_intact p h, nextAction, hstart, issueInit_eq]

/-- While N bytes remain the loop runs BLOCK on the next N of them (R116, R119). -/
theorem stepWith_loop_block (p : Params) {s : State} (hloop : s.phase = .loop) (h : s.bufferIntact = true)
    (hguard : Config.blockSize ≤ s.len - s.pos) :
    stepWith p s = .next (s.afterCommand (s.dp.block (blockAt Config.blockSize s.snapshot s.pos)) none).advance := by
  simp only [stepWith_intact p h, nextAction, hloop, if_pos hguard, issueBlock_eq (State.readBlock_of_intact h hguard)]

/-- When fewer than N bytes remain the loop ends with FINISH (R116). -/
theorem stepWith_loop_finish (p : Params) {s : State} (hloop : s.phase = .loop) (h : s.bufferIntact = true)
    (hguard : s.len - s.pos < Config.blockSize) :
    stepWith p s = .next ((s.afterCommand s.dp (some s.dp.response)).withPhase (.handoff s.dp.response)) := by
  simp only [stepWith_intact p h, nextAction, hloop, if_neg (Nat.not_le.mpr hguard), issueFinish_eq]

/-- The handoff passes the end of the buffer as it began, from the rewound cursor on, to TAIL (R121, R123). -/
theorem stepWith_handoff (p : Params) {s : State} {r : Response} (hhandoff : s.phase = .handoff r) (h : s.bufferIntact = true)
    (hrewind : r.la.toNat ≤ s.pos) (hbounded : s.pos ≤ s.len) :
    stepWith p s = .next (s.conclude (s.pos - r.la.toNat) (s.len - s.pos + r.la.toNat)
      (!r.errAny && p.tail ((s.snapshot.drop (s.pos - r.la.toNat)).take (s.len - s.pos + r.la.toNat)))) := by
  obtain ⟨-, hbuffer⟩ := (bufferIntact_iff s).mp h
  have hslice := Memory.readBytes_slice s.mem s.base s.len (s.pos - r.la.toNat) (s.len - s.pos + r.la.toNat) s.snapshot hbuffer
    (by omega)
  simp only [stepWith_intact p h, nextAction, hhandoff, handoff_eq hslice]

/-- With the zero carried state there is nothing to rewind to (R110). -/
@[simp] theorem Datapath.zero_lookahead (n : Nat) : (Datapath.zero n).lookahead = 0#2 := rfl

/-- The rewind stays behind the cursor: at cursor 0 the datapath is the zero state, and a later cursor is at least N, more than the 3
bytes LA can reach back (R110, R122). -/
theorem State.Inv.rewind_le_pos {s : State} (h : s.Inv) {r : Response} (hhandoff : s.phase = .handoff r) : r.la.toNat ≤ s.pos := by
  obtain ⟨rfl, -, hzero⟩ := (State.phaseInv_handoff hhandoff).mp h.phase
  by_cases hpos : s.pos = 0
  · simp [hzero hpos, Datapath.response]
  · have hla : s.dp.response.la.toNat < 4 := s.dp.response.la.isLt
    have haligned : s.pos % 32 = 0 := h.aligned
    omega

/-- While the invariant and P2 hold, a running VALIDATE goes on, and its buffer stays intact until it ends. -/
theorem State.Inv.running_goes_on {s : State} (h : s.Inv) (p : Params) (hrunning : s.phase ≠ .idle) (hintact : s.bufferIntact = true) :
    ∃ t, stepWith p s = .next t ∧ (t.phase ≠ .idle → t.bufferIntact = true) := by
  cases hphase : s.phase with
  | idle => exact absurd hphase hrunning
  | start => exact ⟨_, stepWith_start p hphase hintact, fun _ => by simpa using hintact⟩
  | loop =>
    by_cases hguard : Config.blockSize ≤ s.len - s.pos
    · exact ⟨_, stepWith_loop_block p hphase hintact hguard, fun _ => by simpa using hintact⟩
    · exact ⟨_, stepWith_loop_finish p hphase hintact (Nat.lt_of_not_le hguard), fun _ => by simpa using hintact⟩
  | handoff r =>
    exact ⟨_, stepWith_handoff p hphase hintact (h.rewind_le_pos hphase) h.bounded, fun hends => absurd rfl hends⟩

/-- A step leaves memory, in every case of what it can do (R51, R120). -/
theorem stepWith_mem {p : Params} {s t : State} (hstep : stepWith p s = .next t) : t.mem = s.mem := by
  rcases stepWith_next hstep with ⟨-, -, rfl⟩ | ⟨_, _, -, -, rfl⟩ | ⟨_, _, _, _, -, -, -, rfl⟩ | ⟨_, -, -, rfl⟩ |
    ⟨-, -, rfl⟩ | ⟨_, -, -, -, -, rfl⟩ | ⟨-, -, -, rfl⟩ | ⟨_, _, -, -, -, rfl⟩ <;> rfl

/-- Settles O36: the whole memory stays, so every read of it does. -/
theorem noStepWritesMemory : Obligations.NoStepWritesMemory :=
  fun _ _ _ hstep => ⟨stepWith_mem hstep, fun a => by rw [stepWith_mem hstep]⟩

/-- Settles O39: the lanes are the next N bytes of the buffer, which memory still holds. -/
theorem loopStepRunsBlock : Obligations.LoopStepRunsBlock := by
  intro p s hloop hintact hguard
  have hload := State.readBlock_of_intact hintact hguard
  refine ⟨blockAt Config.blockSize s.snapshot s.pos, Memory.readBlock_lanes _ _ _ _ hload, ?_⟩
  rw [stepWith_loop_block p hloop hintact hguard, afterCommand_advance]

/-- Settles O59: a placement that leaves the bytes of the buffer leaves the read of it, and an intact run goes on. -/
theorem undisturbedBufferIsNeverRefused : Obligations.UndisturbedBufferIsNeverRefused := by
  refine ⟨fun s addr bytes hintact hsame => ?_, fun p s h hrunning hintact => h.running_goes_on p hrunning hintact⟩
  obtain ⟨-, hbuffer⟩ := (bufferIntact_iff s).mp hintact
  have hread : (s.mem.writeBytes addr bytes).readBytes s.base s.len = some s.snapshot := by
    rw [← hbuffer]
    exact Memory.readBytes_congr hsame
  exact State.withMem_bufferIntact hintact (by simp [State.holdsBuffer, hread])

end Sys2Proof.Machine
end

section
/-! PROOFS. The preconditions of VALIDATE: what a request that breaks one is refused with, what one that meets them all does, and the
refusal of a running VALIDATE whose buffer changes. -/

namespace Sys2Proof.Machine

/-! Each precondition that fails, those checked before it met (R130). -/

section
variable {n : Nat} {p : Params} {m : Memory} {data len : Nat}

theorem preconditions_blockTooNarrow (hsize : blockSizeOk n = false) : preconditions n p m data len = .error .blockTooNarrow := by
  simp [preconditions, hsize]

theorem preconditions_lengthBeyondWidth (hsize : blockSizeOk n = true) (hlen : p.lenOk len = false) :
    preconditions n p m data len = .error .lengthBeyondWidth := by
  simp [preconditions, hsize, hlen]

theorem preconditions_addressBeyondWidth (hsize : blockSizeOk n = true) (hlen : p.lenOk len = true)
    (haddr : p.addrOk data len = false) : preconditions n p m data len = .error .addressBeyondWidth := by
  simp [preconditions, hsize, hlen, haddr]

theorem preconditions_bufferNotReadable (hsize : blockSizeOk n = true) (hlen : p.lenOk len = true)
    (haddr : p.addrOk data len = true) (hread : m.readBytes data len = none) :
    preconditions n p m data len = .error .bufferNotReadable := by
  simp [preconditions, hsize, hlen, haddr, hread]

end

/-- The block size of this hardware meets P4. -/
theorem blockSizeOk_blockSize : blockSizeOk Config.blockSize = true := by decide

section
variable {p : Params} {s : State} {data len : Nat} {rest : List Request}

/-- An idle machine begins the VALIDATE at the head of its port (R114). -/
theorem stepWith_idle_validate (hidle : s.phase = .idle) (hport : s.port = .validate data len :: rest) :
    stepWith p s = beginValidate p data len (s.withPort rest) := by
  rw [stepWith_idle p hidle, takeRequest, hport]

/-- A request that breaks a precondition is refused by its name (R130, R150). -/
theorem stepWith_validate_refused (hidle : s.phase = .idle) (hport : s.port = .validate data len :: rest) {r : Refusal}
    (h : preconditions Config.blockSize p s.mem data len = .error r) : stepWith p s = .refused r := by
  simp only [stepWith_idle_validate hidle hport, beginValidate, State.withPort_mem, h]

/-- A request that meets the preconditions begins, the bytes of its buffer kept (R114, R157). -/
theorem stepWith_validate_begins (hidle : s.phase = .idle) (hport : s.port = .validate data len :: rest) {buffer : List Byte}
    (h : preconditions Config.blockSize p s.mem data len = .ok buffer) :
    stepWith p s = .next ((s.withPort rest).begin data len buffer) := by
  simp only [stepWith_idle_validate hidle hport, beginValidate, State.withPort_mem, h]

end

/-- A range whose every byte is readable is read. -/
theorem Memory.readBytes_of_readable {m : Memory} {a n : Nat} (h : ∀ j < n, m.read (a + j) ≠ none) :
    ∃ bytes, m.readBytes a n = some bytes := by
  apply Option.ne_none_iff_exists'.mp
  intro hnone
  obtain ⟨j, hj, hunreadable⟩ := (Memory.readBytes_eq_none m a n).mp hnone
  exact h j hj hunreadable

/-- A running VALIDATE is refused after a placement that changes its buffer, whatever is placed later (R53, R130). -/
theorem stepWith_placeAll_of_changed (p : Params) {s : State} {addr : Nat} {bytes : List Byte} (later : List (Nat × List Byte))
    (hrunning : s.phase ≠ .idle) (hchanged : s.holdsBuffer (s.mem.writeBytes addr bytes) = false) :
    stepWith p ((s.place addr bytes).placeAll later) = .refused .bufferChanged := by
  have hrecorded : (s.place addr bytes).disturbed = true := State.withMem_disturbed_of_changed hrunning hchanged
  have hrunning' : ((s.place addr bytes).placeAll later).phase ≠ .idle := by
    rw [placeAll_phase]
    exact hrunning
  exact stepWith_broken p hrunning' (State.bufferIntact_of_disturbed (placeAll_disturbed later hrecorded))

/-- Settles O42: the refusals of a request in the order of the checks, then the two of a run under way. -/
theorem brokenPreconditionsAreRefused : Obligations.BrokenPreconditionsAreRefused := by
  refine ⟨fun n p m data len hn => ?_, fun p s data len rest hidle hport => ⟨fun hlen => ?_, fun hlen haddr => ?_,
    fun hlen haddr hunreadable => ?_, fun hlen haddr hreadable => ?_⟩, fun p s hrunning hchanged => ?_,
    fun p s addr bytes later hrunning hchanged => ?_⟩
  · have hsize : blockSizeOk n = false := by simpa [blockSizeOk, Config.minBlockSize] using hn
    simp only [validateAt, preconditions_blockTooNarrow hsize]
  · exact stepWith_validate_refused hidle hport (preconditions_lengthBeyondWidth blockSizeOk_blockSize hlen)
  · exact stepWith_validate_refused hidle hport (preconditions_addressBeyondWidth blockSizeOk_blockSize hlen haddr)
  · have hread : s.mem.readBytes data len = none := (Memory.readBytes_eq_none s.mem data len).mpr hunreadable
    exact stepWith_validate_refused hidle hport (preconditions_bufferNotReadable blockSizeOk_blockSize hlen haddr hread)
  · obtain ⟨buffer, hread⟩ := Memory.readBytes_of_readable hreadable
    exact ⟨_, stepWith_validate_begins hidle hport
      ((preconditions_ok _ p s.mem data len buffer).mpr ⟨blockSizeOk_blockSize, hlen, haddr, hread⟩)⟩
  · exact stepWith_broken p hrunning (State.bufferIntact_of_changed (State.holdsBuffer_eq_false hchanged))
  · exact stepWith_placeAll_of_changed p later hrunning (State.holdsBuffer_eq_false hchanged)

end Sys2Proof.Machine
end

section
/-! SUPPORT. The decoder by cases of `cmd_op` (R68, R69), the packing of unpacked lanes (R62, R65), and the image of a command word as
one number, from which the word is read back (assumption 5). -/

namespace Sys2Proof

/-- Everything the decoder can answer, with the opcode it answers it on. -/
theorem decode_cases (w : CommandWord) :
    (w.op = 0b00#2 ∧ decode w = .nop) ∨ (w.op = 0b01#2 ∧ decode w = .init) ∨
    (w.op = 0b10#2 ∧ decode w = .block (unpackLanes Config.blockSize w.data)) ∨ (w.op = 0b11#2 ∧ decode w = .finish) := by
  have hfour : ∀ op : BitVec 2, op = 0b00#2 ∨ op = 0b01#2 ∨ op = 0b10#2 ∨ op = 0b11#2 := by decide
  rcases hfour w.op with hop | hop | hop | hop <;> simp [decode, hop]

/-- On opcode 10 the decoder answers a BLOCK of the operand's lanes, whatever the operand. -/
@[simp] theorem decode_block (data : BitVec (8 * Config.blockSize)) :
    decode { op := 0b10#2, data := data } = .block (unpackLanes Config.blockSize data) := rfl

/-- The decoded command has the opcode of the word (R68). -/
theorem opcode_decode (w : CommandWord) : (decode w).opcode = w.op := by
  rcases decode_cases w with ⟨hop, h⟩ | ⟨hop, h⟩ | ⟨hop, h⟩ | ⟨hop, h⟩ <;> rw [h, hop] <;> rfl

/-- Bit `8i + j` of an operand is bit `j` of its lane `i` (R62). -/
theorem getLsbD_dataLane {w : Nat} (data : BitVec w) (i : Nat) {j : Nat} (hj : j < 8) :
    (dataLane data i).getLsbD j = data.getLsbD (8 * i + j) := by
  simp [dataLane, hj]

/-- Two operands with the same lanes are equal: every bit stands in a lane. -/
theorem eq_of_dataLane_eq {n : Nat} {x y : BitVec (8 * n)} (h : ∀ i < n, dataLane x i = dataLane y i) : x = y := by
  apply BitVec.eq_of_getLsbD_eq
  intro k hk
  have hbit : k % 8 < 8 := Nat.mod_lt k (by decide)
  rw [← Nat.div_add_mod k 8, ← getLsbD_dataLane x _ hbit, ← getLsbD_dataLane y _ hbit, h (k / 8) (by omega)]

/-- Packing gives back an unpacked operand, at every block size. -/
@[simp] theorem packLanes_unpackLanes (n : Nat) (data : BitVec (8 * n)) : packLanes (unpackLanes n data) = data := by
  apply eq_of_dataLane_eq
  intro i hi
  rw [dataLane_packLanes _ hi]
  simp [unpackLanes]

/-- The image of a command word has no bit above the last bit of `cmd_data`. -/
theorem CommandWord.image_lt (w : CommandWord) : w.image < 2 ^ Config.imageBits := by
  have hop : w.op.toNat < 4 := w.op.isLt
  have hdata : w.data.toNat < 2 ^ (8 * Config.blockSize) := w.data.isLt
  rw [CommandWord.image, Nat.pow_add]
  generalize 2 ^ (8 * Config.blockSize) = bound at hdata ⊢
  omega

/-- Above the two bits of `cmd_op` the image is `cmd_data`. -/
theorem CommandWord.image_div_four (w : CommandWord) : w.image / 4 = w.data.toNat := by
  have hop : w.op.toNat < 4 := w.op.isLt
  rw [CommandWord.image]
  omega

/-- The two lowest bits of the image are `cmd_op`. -/
theorem CommandWord.image_mod_four (w : CommandWord) : w.image % 4 = w.op.toNat := by
  have hop : w.op.toNat < 4 := w.op.isLt
  rw [CommandWord.image]
  omega

/-- A command word is read back from its image. -/
@[simp] theorem CommandWord.ofImage_image (w : CommandWord) : CommandWord.ofImage w.image = w := by
  have hop : BitVec.ofNat 2 w.image = w.op := BitVec.eq_of_toNat_eq w.image_mod_four
  have hdata : BitVec.ofNat (8 * Config.blockSize) (w.image / 4) = w.data := by
    rw [w.image_div_four, BitVec.ofNat_toNat, BitVec.setWidth_eq]
  rw [CommandWord.ofImage, hop, hdata]

/-- The image of a whole command word decodes as the word. -/
theorem decodeTableWord_image (w : CommandWord) : decodeTableWord Config.imageBits w.image = some (decode w) := by
  have hwhole : w.image % 2 ^ Config.imageBits = w.image := Nat.mod_eq_of_lt w.image_lt
  have hport : ¬ 2 ^ (8 * Config.blockSize) ≤ w.image / 4 := by
    rw [w.image_div_four]
    exact Nat.not_le.mpr w.data.isLt
  have hlong : ¬ Config.imageBits < 2 := by decide
  rw [decodeTableWord, decodeImage, hwhole, if_neg hlong, if_neg hport, w.ofImage_image]

end Sys2Proof
end

section
/-! PROOFS. The encoding of the command port: decoding and encoding undo each other, lane by lane and as one number. -/

namespace Sys2Proof

/-- Settles O9: the encoded word decodes to the command, and its image is read back as the word. -/
theorem decodeOfEncode : Obligations.DecodeOfEncode := by
  refine ⟨fun i => ⟨decode_encode i, ?_⟩, unpackLanes_packLanes⟩
  rw [decodeTableWord_image, decode_encode]

/-- Settles O8: the lanes are the operand's eight-bit slices, in order. -/
theorem blockOperandLanes : Obligations.BlockOperandLanes := by
  refine fun data => ⟨_, decode_block data, fun i hi j hj => ?_⟩
  rw [Machine.lane_unpackLanes _ data hi]
  exact getLsbD_dataLane data i hj

/-- Settles O10: the decoder keeps the opcode, and the lanes of a BLOCK pack back to its operand. -/
theorem encodeOfDecode : Obligations.EncodeOfDecode := by
  refine fun w => ⟨opcode_decode w, fun hop => ?_⟩
  obtain ⟨op, data⟩ := w
  subst hop
  simp [encode, Instr.opcode, Instr.operand]

/-- Settles O7: the opcodes one by one, each with the one row that selects it. -/
theorem decodingSelectsOneCommand : Obligations.DecodingSelectsOneCommand := by
  refine ⟨fun _ => rfl, fun _ => rfl, fun data => ⟨_, decode_block data⟩, fun _ => rfl, fun w => ?_⟩
  rcases decode_cases w with ⟨hop, h⟩ | ⟨hop, h⟩ | ⟨hop, h⟩ | ⟨hop, h⟩ <;> rw [h, hop] <;> rfl

/-- Settles O11 by decoding the four words. -/
theorem writtenWordsDecode : Obligations.WrittenWordsDecode :=
  ⟨by decide, by decide, by decide, by decide⟩

end Sys2Proof
end

section
/-! SUPPORT. A sequence of commands as one equation: the responses and the datapath depend on the datapath alone (R63, R144). -/

namespace Sys2Proof.Machine

/-- The datapath a sequence of commands leaves. -/
def datapathAfter (commands : List Instr) (d : Datapath Config.blockSize) : Datapath Config.blockSize :=
  commands.foldl (fun d i => commandDatapath i d) d

/-- The response of each command of a sequence. -/
def responsesFrom : List Instr → Datapath Config.blockSize → List (Option Response)
  | [], _ => []
  | i :: rest, d => commandResponse i d :: responsesFrom rest (commandDatapath i d)

@[simp] theorem datapathAfter_append (commands more : List Instr) (d : Datapath Config.blockSize) :
    datapathAfter (commands ++ more) d = datapathAfter more (datapathAfter commands d) :=
  List.foldl_append

/-- Every sequence of commands runs to its end, with these responses and this datapath. -/
theorem runCommands_eq (commands : List Instr) (s : State) :
    ∃ t, runCommands commands s = some (responsesFrom commands s.dp, t) ∧ t.dp = datapathAfter commands s.dp := by
  induction commands generalizing s with
  | nil => exact ⟨s, rfl, rfl⟩
  | cons i rest ih =>
    obtain ⟨t, hrun, hdp⟩ := ih (s.afterCommand (commandDatapath i s.dp) (commandResponse i s.dp))
    exact ⟨t, runCommands_cons hrun, hdp⟩

@[simp] theorem responsesFrom_length (commands : List Instr) (d : Datapath Config.blockSize) :
    (responsesFrom commands d).length = commands.length := by
  induction commands generalizing d with
  | nil => rfl
  | cons i rest ih => simp [responsesFrom, ih]

theorem responsesFrom_append (commands more : List Instr) (d : Datapath Config.blockSize) :
    responsesFrom (commands ++ more) d = responsesFrom commands d ++ responsesFrom more (datapathAfter commands d) := by
  induction commands generalizing d with
  | nil => rfl
  | cons i rest ih => exact congrArg (commandResponse i d :: ·) (ih (commandDatapath i d))

/-- FINISH is the one command that responds (R63). -/
theorem commandResponse_eq_none_iff (i : Instr) (d : Datapath Config.blockSize) : commandResponse i d = none ↔ i ≠ .finish := by
  cases i <;> simp [commandResponse]

/-- In a sequence the commands other than FINISH are those without a response. -/
theorem responsesFrom_getD_eq_none_iff (commands : List Instr) (d : Datapath Config.blockSize) (k : Nat) (h : k < commands.length) :
    (responsesFrom commands d).getD k none = none ↔ commands[k] ≠ .finish := by
  induction commands generalizing d k with
  | nil => exact absurd h (Nat.not_lt_zero k)
  | cons i rest ih =>
    cases k with
    | zero => exact commandResponse_eq_none_iff i d
    | succ k => exact ih (commandDatapath i d) k (Nat.lt_of_succ_lt_succ h)

end Sys2Proof.Machine
end

section
/-! SUPPORT. The block loop of VALIDATE in closed form (R116, R117): the blocks it runs are the whole blocks of the buffer, in order. -/

namespace Sys2Proof.Machine

/-- The first `k` blocks of a buffer, at offsets 0, N, 2N and so on. -/
def leadingBlocks (n : Nat) (buffer : List Byte) (k : Nat) : List (Vector Byte n) :=
  (List.range k).map fun j => blockAt n buffer (n * j)

theorem leadingBlocks_succ (n : Nat) (buffer : List Byte) (k : Nat) :
    leadingBlocks n buffer (k + 1) = leadingBlocks n buffer k ++ [blockAt n buffer (n * k)] := by
  simp [leadingBlocks, List.range_succ]

@[simp] theorem leadingBlocks_length (n : Nat) (buffer : List Byte) (k : Nat) : (leadingBlocks n buffer k).length = k := by
  simp [leadingBlocks]

/-- After `k` rounds, all of which the guard admits, the loop stands behind the first `k` blocks. -/
theorem blockLoop_leadingBlocks (n : Nat) (buffer : List Byte) (k rounds : Nat) (h : n * k ≤ buffer.length) :
    blockLoop n buffer (rounds + k) 0 (Datapath.zero n) =
      blockLoop n buffer rounds (n * k) (afterBlocks (leadingBlocks n buffer k)) := by
  induction k generalizing rounds with
  | zero => rfl
  | succ k ih =>
    rw [Nat.mul_succ] at h
    have hguard : n ≤ buffer.length - n * k := by omega
    rw [← Nat.succ_add_eq_add_succ, ih _ (by omega), blockLoop_round n buffer _ _ _ hguard, ← afterBlocks_append,
      ← leadingBlocks_succ, Nat.mul_succ]

/-- The loop runs `floor(LEN / N)` rounds: its bound of `LEN + 1` is enough, and the remainder is shorter than a block (R117). -/
theorem blockLoop_eq {n : Nat} (hn : 0 < n) (buffer : List Byte) :
    blockLoop n buffer (buffer.length + 1) 0 (Datapath.zero n) =
      (n * (buffer.length / n), afterBlocks (leadingBlocks n buffer (buffer.length / n))) := by
  have hrounds : buffer.length + 1 = buffer.length + 1 - buffer.length / n + buffer.length / n := by
    have := Nat.div_le_self buffer.length n
    omega
  have hend : buffer.length - n * (buffer.length / n) < n := by
    rw [← Nat.mod_eq_sub_mul_div]
    exact Nat.mod_lt _ hn
  rw [hrounds, blockLoop_leadingBlocks n buffer _ _ (Nat.mul_div_le _ _), blockLoop_end n buffer _ _ _ hend]

/-- VALIDATE leaves the datapath of the buffer's whole blocks, whatever TAIL is. -/
theorem validate_dp {n : Nat} (hn : 0 < n) (tail : List Byte → Bool) (buffer : List Byte) :
    (validate n tail buffer).dp = afterBlocks (leadingBlocks n buffer (buffer.length / n)) := by
  simp only [validate, validateBy, blockLoop_eq hn]

/-- The commands of the expansion are INIT, the buffer's whole blocks and FINISH (R77). -/
theorem expansion_eq (buffer : List Byte) :
    expansion buffer =
      (.init :: (leadingBlocks Config.blockSize buffer (buffer.length / Config.blockSize)).map .block) ++ [.finish] := by
  simp [expansion, leadingBlocks]

/-- INIT and blocks leave the blocks' datapath from the zero state, whatever was there. -/
theorem datapathAfter_init_blocks (blocks : List (Vector Byte Config.blockSize)) (d : Datapath Config.blockSize) :
    datapathAfter (.init :: blocks.map .block) d = afterBlocks blocks := by
  rw [datapathAfter, List.foldl_cons, List.foldl_map]
  rfl

end Sys2Proof.Machine
end

section
/-! PROOFS. Sequences of commands: what they answer, and the sequence VALIDATE expands to. -/

namespace Sys2Proof.Machine

/-- Settles O15: a run answers each command's own response, which only FINISH has. -/
theorem onlyFinishResponds : Obligations.OnlyFinishResponds := by
  refine ⟨fun commands s => ?_, fun i s t hexec => ?_⟩
  · obtain ⟨t, hrun, -⟩ := runCommands_eq commands s
    exact ⟨_, t, hrun, responsesFrom_length commands s.dp, responsesFrom_getD_eq_none_iff commands s.dp⟩
  · rw [exec_next hexec]
    refine ⟨fun hi => ?_, (commandResponse_eq_none_iff i s.dp).mpr⟩
    subst hi; rfl

/-- Settles O45: INIT and the buffer's whole blocks leave the datapath VALIDATE leaves, which FINISH keeps and reports. -/
theorem expansionComputesValidate : Obligations.ExpansionComputesValidate := by
  intro tail buffer s
  obtain ⟨t, hrun, hdp⟩ := runCommands_eq (expansion buffer) s
  have hvalidate := validate_dp (n := Config.blockSize) (by decide) tail buffer
  have hbefore := datapathAfter_init_blocks (leadingBlocks Config.blockSize buffer (buffer.length / Config.blockSize)) s.dp
  refine ⟨_, t, hrun, ?_, ?_, ?_⟩
  · simp [expansion_eq]
  · rw [hdp, expansion_eq, datapathAfter_append, hbefore, hvalidate]
    rfl
  · rw [expansion_eq, responsesFrom_append, hbefore, hvalidate]
    exact List.getLast?_concat ..

end Sys2Proof.Machine
end

section
/-! SUPPORT. Reading undoes writing for the parts of a line (R10, R76, R77): the two digits of a byte, the tokens of a text, the
comment, and the keyword that says which line it is. -/

namespace Sys2Proof.Machine

/-- A text that is one token: not empty, with no space and no comment mark. -/
def IsToken (w : List Char) : Prop := w ≠ [] ∧ ∀ c ∈ w, c ≠ ' ' ∧ c ≠ ';'

theorem hexValue_hexDigit : ∀ k < 16, hexValue (hexDigit k) = some k := by decide

theorem hexDigit_no_separator : ∀ k < 16, hexDigit k ≠ ' ' ∧ hexDigit k ≠ ';' := by decide

/-- A byte is read back from its two digits. -/
@[simp] theorem parseByte_printByte (b : Byte) : parseByte (printByte b) = some b := by
  have hb : b.toNat < 256 := b.isLt
  have hvalue : 16 * (b.toNat / 16) + b.toNat % 16 = b.toNat := Nat.div_add_mod _ _
  simp [parseByte, printByte, hexValue_hexDigit _ (show b.toNat / 16 < 16 by omega),
    hexValue_hexDigit _ (show b.toNat % 16 < 16 by omega), hvalue]

theorem parseBytes_map_printByte (bytes : List Byte) : parseBytes (bytes.map printByte) = some bytes := by
  induction bytes with
  | nil => rfl
  | cons b rest ih => simp [parseBytes, ih]

/-- The arrow is no byte. -/
theorem printByte_ne_arrow (b : Byte) : printByte b ≠ arrow := by
  have harrow : parseByte arrow = none := by decide
  intro h
  simpa [h, harrow] using parseByte_printByte b

theorem printByte_isToken (b : Byte) : IsToken (printByte b) := by
  have hb : b.toNat < 256 := b.isLt
  refine ⟨by simp [printByte], fun c hc => ?_⟩
  rcases List.mem_pair.mp hc with rfl | rfl
  · exact hexDigit_no_separator _ (by omega)
  · exact hexDigit_no_separator _ (by omega)

/-- Characters that are no space join the token being read. -/
theorem tokensFrom_append {w : List Char} (hw : ∀ c ∈ w, c ≠ ' ') (rest read : List Char) :
    tokensFrom (w ++ rest) read = tokensFrom rest (w.reverse ++ read) := by
  induction w generalizing read with
  | nil => rfl
  | cons c w ih =>
    obtain ⟨hc, hrest⟩ := List.forall_mem_cons.mp hw
    simp [tokensFrom, hc, ih hrest]

/-- A comment adds no token, whatever stands before it (R76). -/
theorem tokens_comment (text comment : List Char) : tokens (text ++ ';' :: comment) = tokens text := by
  have hstrip : stripComment (text ++ ';' :: comment) = stripComment text := by
    induction text with
    | nil => rfl
    | cons c text ih => simp only [stripComment, List.cons_append, List.takeWhile_cons] at ih ⊢; rw [ih]
  rw [tokens, hstrip, tokens]

/-- A space before a token is skipped. -/
theorem tokens_space (text : List Char) : tokens (' ' :: text) = tokens text := rfl

/-- A text at whose front the token before it ends: empty, or a space. -/
def AtBreak (text : List Char) : Prop := ∀ c ∈ text.head?, c = ' '

theorem atBreak_nil : AtBreak [] := by simp [AtBreak]

theorem atBreak_space (text : List Char) : AtBreak (' ' :: text) := by simp [AtBreak]

/-- Every byte of a line is written after a space. -/
theorem AtBreak.printBytes_append {rest : List Char} (h : AtBreak rest) (bytes : List Byte) : AtBreak (printBytes bytes ++ rest) := by
  cases bytes with
  | nil => exact h
  | cons b bytes => exact atBreak_space _

/-- A token is read up to the next break. -/
theorem tokens_append {w rest : List Char} (hw : IsToken w) (hrest : AtBreak rest) : tokens (w ++ rest) = w :: tokens rest := by
  obtain ⟨hne, hchars⟩ := hw
  have hstrip : stripComment (w ++ rest) = w ++ stripComment rest :=
    List.takeWhile_append_of_pos fun c hc => by simpa using (hchars c hc).2
  rw [tokens, hstrip, tokensFrom_append fun c hc => (hchars c hc).1]
  cases rest with
  | nil => simp [tokens, stripComment, tokensFrom, hne]
  | cons c rest =>
    obtain rfl : c = ' ' := hrest c rfl
    simp [tokens, stripComment, tokensFrom, hne]

/-- The bytes of a line are its next tokens. -/
theorem tokens_printBytes_append (bytes : List Byte) {rest : List Char} (hrest : AtBreak rest) :
    tokens (printBytes bytes ++ rest) = bytes.map printByte ++ tokens rest := by
  induction bytes with
  | nil => rfl
  | cons b bytes ih =>
    rw [printBytes, List.cons_append, List.cons_append, List.append_assoc, tokens_space,
      tokens_append (printByte_isToken b) (hrest.printBytes_append bytes), ih]
    rfl

theorem arrow_isToken : IsToken arrow := by simp [IsToken, arrow]

/-- What is noted after an arrow begins a token of its own (R76). -/
theorem tokens_arrow (note : List Char) : tokens (' ' :: (arrow ++ ' ' :: note)) = arrow :: tokens note := by
  rw [tokens_space, tokens_append arrow_isToken (atBreak_space note), tokens_space]

/-- The bytes before an arrow are read up to the arrow. -/
theorem takeWhile_printByte_arrow (bytes : List Byte) (note : List (List Char)) :
    (bytes.map printByte ++ arrow :: note).takeWhile (· ≠ arrow) = bytes.map printByte := by
  rw [List.takeWhile_append_of_pos (by simpa using fun b _ => printByte_ne_arrow b)]
  simp

theorem takeWhile_printByte (bytes : List Byte) : (bytes.map printByte).takeWhile (· ≠ arrow) = bytes.map printByte :=
  List.takeWhile_eq_self_iff.mpr (by simpa using fun b _ => printByte_ne_arrow b)

/-- The keyword a line is written with. -/
def keyword : Line → List Char
  | .nop => kwNop
  | .init => kwInit
  | .block _ => kwBlock
  | .finish => kwFinish
  | .reset => kwReset
  | .validate _ => kwValidate

/-- The bytes a line is written with. -/
def operands : Line → List Byte
  | .block bytes => bytes
  | .validate bytes => bytes
  | .nop | .init | .finish | .reset => []

theorem printLine_eq (l : Line) : printLine l = keyword l ++ printBytes (operands l) := by
  cases l <;> rfl

theorem keyword_isToken (l : Line) : IsToken (keyword l) := by
  cases l <;> simp [IsToken, keyword, kwNop, kwInit, kwBlock, kwFinish, kwReset, kwValidate]

/-- The tokens a line is written with. -/
def lineTokens (l : Line) : List (List Char) := keyword l :: (operands l).map printByte

/-- A line is written as its tokens, whatever stands behind it after a break. -/
theorem tokens_printLine_append (l : Line) {rest : List Char} (hrest : AtBreak rest) :
    tokens (printLine l ++ rest) = lineTokens l ++ tokens rest := by
  rw [printLine_eq, List.append_assoc, tokens_append (keyword_isToken l) (hrest.printBytes_append _),
    tokens_printBytes_append _ hrest]
  rfl

theorem tokens_printLine (l : Line) : tokens (printLine l) = lineTokens l := by
  simpa [show tokens [] = [] from rfl] using tokens_printLine_append l atBreak_nil

/-- A line with a note after an arrow: its tokens, the arrow, and whatever the note holds. -/
theorem tokens_printLine_note (l : Line) (note : List Char) :
    tokens (printLine l ++ ' ' :: (arrow ++ ' ' :: note)) = lineTokens l ++ arrow :: tokens note := by
  rw [tokens_printLine_append l (atBreak_space _), tokens_arrow]

/-- A FINISH with its response is the line FINISH with a note (R76). -/
theorem printFinish_eq_note (r : Response) : ∃ note, printFinish r = printLine .finish ++ ' ' :: (arrow ++ ' ' :: note) :=
  ⟨_, rfl⟩

/-- A VALIDATE with its result is the line VALIDATE with a note (R77). -/
theorem printValidate_eq_note (bytes : List Byte) (valid : Bool) (off len : Nat) :
    ∃ note, printValidate bytes valid off len = printLine (.validate bytes) ++ ' ' :: (arrow ++ ' ' :: note) := by
  simp [printValidate, arrow]

/-! The line a text is, by its first token; what follows the arrow after FINISH and VALIDATE is not read (R76, R77). -/

section
variable {text : List Char} {rest : List (List Char)}

theorem parseLine_nop (h : tokens text = kwNop :: rest) : parseLine text = bare .nop rest := by
  rw [parseLine, h]; rfl

theorem parseLine_init (h : tokens text = kwInit :: rest) : parseLine text = bare .init rest := by
  rw [parseLine, h]; rfl

theorem parseLine_block (h : tokens text = kwBlock :: rest) : parseLine text = withBytes .block rest := by
  rw [parseLine, h]; rfl

theorem parseLine_finish (h : tokens text = kwFinish :: rest) : parseLine text = bare .finish (rest.takeWhile (· ≠ arrow)) := by
  rw [parseLine, h]; rfl

theorem parseLine_reset (h : tokens text = kwReset :: rest) : parseLine text = bare .reset rest := by
  rw [parseLine, h]; rfl

theorem parseLine_validate (h : tokens text = kwValidate :: rest) :
    parseLine text = withBytes .validate (rest.takeWhile (· ≠ arrow)) := by
  rw [parseLine, h]; rfl

end

/-- Bytes are read as the operand of their line. -/
theorem withBytes_map_printByte (f : List Byte → Line) (bytes : List Byte) :
    withBytes f (bytes.map printByte) = .ok (some (f bytes)) := by
  rw [withBytes, parseBytes_map_printByte]

/-- A text with the tokens of a line is read as the line. -/
theorem parseLine_of_tokens {text : List Char} (l : Line) (h : tokens text = lineTokens l) : parseLine text = .ok (some l) := by
  cases l with
  | nop => exact parseLine_nop h
  | init => exact parseLine_init h
  | block bytes => exact (parseLine_block h).trans (withBytes_map_printByte .block bytes)
  | finish => exact parseLine_finish h
  | reset => exact parseLine_reset h
  | validate bytes =>
    rw [parseLine_validate h, takeWhile_printByte]
    exact withBytes_map_printByte .validate bytes

/-- A BLOCK line of N bytes stands for the BLOCK with these lanes (R76). -/
theorem lineInstr_block_eq_some_iff (bytes : List Byte) :
    (∃ lanes, lineInstr (.block bytes) = some (.block lanes) ∧ lanes.toList = bytes) ↔ bytes.length = Config.blockSize := by
  constructor
  · rintro ⟨lanes, -, rfl⟩
    exact lanes.length_toList
  · intro h
    exact ⟨⟨bytes.toArray, by simpa using h⟩, by simp [lineInstr, h], rfl⟩

end Sys2Proof.Machine
end

section
/-! PROOFS. The textual form: reading what is written. -/

namespace Sys2Proof.Machine

/-- Settles O58: a written line has the tokens of the line, and a comment or a note adds none that is read. -/
theorem textualFormRoundTrip : Obligations.TextualFormRoundTrip := by
  refine ⟨fun l => parseLine_of_tokens l (tokens_printLine l), fun l comment => ?_, fun r => ?_, fun bytes valid off len => ?_,
    fun bytes => ?_⟩
  · exact parseLine_of_tokens l ((tokens_comment _ comment).trans (tokens_printLine l))
  · obtain ⟨note, hnote⟩ := printFinish_eq_note r
    rw [hnote, parseLine_finish (tokens_printLine_note .finish note)]
    rfl
  · obtain ⟨note, hnote⟩ := printValidate_eq_note bytes valid off len
    have htokens : tokens (printValidate bytes valid off len) = kwValidate :: (bytes.map printByte ++ arrow :: tokens note) :=
      hnote ▸ tokens_printLine_note (.validate bytes) note
    rw [parseLine_validate htokens, takeWhile_printByte_arrow, withBytes_map_printByte]
  · simpa [Line.wellFormed] using lineInstr_block_eq_some_iff bytes

end Sys2Proof.Machine
end

section
/-! SUPPORT. What a byte's high nibble looks up, by class of byte (R80, R81), and the range index of a lane as its base plus what the
bytes before it demand (R86 to R88). -/

namespace Sys2Proof.Machine

/-- The continuation count by class of byte (R80). -/
theorem ccnt_highNibble : ∀ b : Byte,
    ccnt (highNibble b) = if b < 0xC0#8 then 0 else if b < 0xE0#8 then 1 else if b < 0xF0#8 then 2 else 3 := by decide

/-- The range base by class of byte (R81). -/
theorem rbase_highNibble : ∀ b : Byte, rbase (highNibble b) = if b < 0xC0#8 then 0#4 else 8#4 := by decide

theorem ccnt_highNibble_of_lt {b : Byte} (h : b < 0xC0#8) : ccnt (highNibble b) = 0 := by rw [ccnt_highNibble, if_pos h]

/-- The third-byte contribution by class of the byte (R84). -/
theorem satsub_one_ccnt : ∀ b : Byte,
    satsub (ccnt (highNibble b)) 1 = if b < 0xE0#8 then 0 else if b < 0xF0#8 then 1 else 2 := by decide

/-- The fourth-byte contribution by class of the byte (R85). -/
theorem satsub_two_ccnt : ∀ b : Byte, satsub (ccnt (highNibble b)) 2 = if b < 0xF0#8 then 0 else 1 := by decide

/-- A byte with a correction is a lead byte. -/
theorem corr_eq_zero_of_ccnt : ∀ b : Byte, ccnt (highNibble b) = 0 → corr b = 0 := by decide

/-- No correction exceeds 4 (R20). -/
theorem corr_toNat_le (b : Byte) : (corr b).toNat ≤ 4 := by
  unfold corr
  split_ifs <;> decide

/-- What the bytes before a lane demand of it: the part of the range index that the lane's own byte does not give. -/
def demand (k1 k2 k3 : Count) (k : Correction) : Index := combine 0 k1 k2 k3 + k.setWidth 4

theorem rbase_toNat_le : ∀ i : Index, (rbase i).toNat ≤ 8 := by decide

/-- The OR of contributions stays below the range base 8 (R88). -/
theorem combine_zero_toNat_le : ∀ k1 k2 k3 : Count, (combine 0 k1 k2 k3).toNat ≤ 3 := by decide

/-- The contributions do not overlap the range base, so their OR is a sum (R88). -/
theorem combine_rbase (i : Index) (k1 k2 k3 : Count) : combine (rbase i) k1 k2 k3 = rbase i + combine 0 k1 k2 k3 := by
  have hbase : rbase i = 0 ∨ rbase i = 8 := by revert i; decide
  rcases hbase with h | h <;> rw [h] <;> revert k1 k2 k3 <;> decide

/-- The demand is the sum of its parts, without carry (R96). -/
theorem demand_toNat (k1 k2 k3 : Count) {k : Correction} (hk : k.toNat ≤ 4) :
    (demand k1 k2 k3 k).toNat = (combine 0 k1 k2 k3).toNat + k.toNat := by
  have hor := combine_zero_toNat_le k1 k2 k3
  rw [demand, BitVec.toNat_add, BitVec.toNat_setWidth]
  omega

/-- Nothing is demanded exactly when there is no contribution and no correction. -/
theorem demand_eq_zero_iff : ∀ (k1 k2 k3 : Count) {k : Correction}, k.toNat ≤ 4 →
    (demand k1 k2 k3 k = 0 ↔ (k1 = 0 ∧ k2 = 0 ∧ k3 = 0) ∧ k = 0) := by decide

section
variable {n : Nat} (d : Datapath n) (v : Vector Byte n) (i : Nat)

theorem laneCorr_toNat_le : (laneCorr d v i).toNat ≤ 4 := corr_toNat_le _

/-- What the bytes before lane `i` demand of it. -/
def laneDemand : Index := demand (c1 d v i) (c2 d v i) (c3 d v i) (laneCorr d v i)

/-- The demand has at most the three bits below the range base, whatever PIN and PCC hold (R88). -/
theorem laneDemand_toNat_le : (laneDemand d v i).toNat ≤ 7 := by
  have hor := combine_zero_toNat_le (c1 d v i) (c2 d v i) (c3 d v i)
  have hcorr := laneCorr_toNat_le d v i
  rw [laneDemand, demand_toNat _ _ _ hcorr]
  omega

/-- The range index is the base of the lane's byte and the demand of the bytes before it. -/
theorem index_eq_base_add : index d v i = laneBase v i + laneDemand d v i := by
  rw [index, index0, laneBase, combine_rbase, BitVec.add_assoc]
  rfl

/-- The addition of the correction does not carry out: its operands are at most 11 and 4 (R88, R96). -/
theorem index_toNat : (index d v i).toNat = (index0 d v i).toNat + (laneCorr d v i).toNat := by
  have hbase : (laneBase v i).toNat ≤ 8 := rbase_toNat_le _
  have hor := combine_zero_toNat_le (c1 d v i) (c2 d v i) (c3 d v i)
  have hcorr := laneCorr_toNat_le d v i
  have hindex0 : (index0 d v i).toNat ≤ 11 := by
    rw [index0, laneBase, combine_rbase, BitVec.toNat_add]
    rw [laneBase] at hbase
    omega
  rw [index, BitVec.toNat_add, BitVec.toNat_setWidth]
  omega

variable {d v i}

/-- Below C0 the range index is the demand. -/
theorem index_of_lt (h : lane v i < 0xC0#8) : index d v i = laneDemand d v i := by
  rw [index_eq_base_add, laneBase, rbase_highNibble, if_pos h, BitVec.zero_add]

/-- From C0 on the range index is 8 plus the demand, without carry. -/
theorem index_toNat_of_le (h : 0xC0#8 ≤ lane v i) : (index d v i).toNat = 8 + (laneDemand d v i).toNat := by
  have hdemand := laneDemand_toNat_le d v i
  rw [index_eq_base_add, laneBase, rbase_highNibble, if_neg (BitVec.not_lt.mpr h), BitVec.toNat_add, BitVec.toNat_ofNat]
  omega

end

end Sys2Proof.Machine
end

section
/-! SUPPORT. The signed range test in unsigned words (R91): at the real indices it is membership of an unsigned range, at the sentinels
it always fails. -/

namespace Sys2Proof.Machine

/-- The unsigned range of bytes a range index allows (R18). -/
def codeRange (j : Index) : ByteRange := ⟨rmin j, rmax j⟩

/-- Signed and unsigned comparison with two bounds agree when both bounds lie on one side of 80: a byte on the other side is outside
under either reading (R91 (a)). -/
theorem signed_outside_iff {lo hi b : Byte} (hle : lo ≤ hi) (hside : lo < 0x80#8 ↔ hi < 0x80#8) :
    (s8 b < s8 lo ∨ s8 hi < s8 b) ↔ (b < lo ∨ hi < b) := by
  simp only [BitVec.lt_def, BitVec.le_def, BitVec.toNat_ofNat] at *
  unfold s8
  split_ifs <;> omega

/-- The bounds of a real range index are in order and on one side of 80 (R21). -/
theorem rmin_le_rmax : ∀ {j : Index}, j ≤ 8#4 → rmin j ≤ rmax j ∧ (rmin j < 0x80#8 ↔ rmax j < 0x80#8) := by decide

/-- The unsigned form of the range test at a real index (R91 (a)). -/
theorem rangeFail_iff_of_le {j : Index} (h : j ≤ 8#4) (b : Byte) : rangeFail b j = true ↔ b < rmin j ∨ rmax j < b := by
  obtain ⟨hle, hside⟩ := rmin_le_rmax h
  rw [← signed_outside_iff hle hside]
  simp [rangeFail]

/-- At a real index the range test passes exactly the bytes of the index's range. -/
theorem rangeFail_eq_not_holds {j : Index} (h : j ≤ 8#4) (b : Byte) : rangeFail b j = !(codeRange j).holds b := by
  rw [Bool.eq_iff_iff, rangeFail_iff_of_le h]
  rw [ByteRange.holds, Bool.not_and, Bool.or_eq_true, Bool.not_eq_true', Bool.not_eq_true', decide_eq_false_iff_not,
    decide_eq_false_iff_not, BitVec.not_le, BitVec.not_le]
  rfl

/-- At a sentinel the unsigned test passes 7F and 80, and only these (R91 (c)). -/
theorem unsigned_sentinel_iff {j : Index} (h : 9#4 ≤ j) (b : Byte) : (b < rmin j ∨ rmax j < b) ↔ ¬(b = 0x7F#8 ∨ b = 0x80#8) := by
  rw [rmin_sentinel h, rmax_sentinel h]
  bv_omega

/-- The plain unsigned test misses exactly 7F and 80, and only at the sentinels (R91 (c)). -/
theorem rangeFail_and_unsigned_passes_iff (b : Byte) (j : Index) :
    (rangeFail b j = true ∧ ¬(b < rmin j ∨ rmax j < b)) ↔ (9#4 ≤ j ∧ (b = 0x7F#8 ∨ b = 0x80#8)) := by
  by_cases hreal : j ≤ 8#4
  · have hnot : ¬9#4 ≤ j := by bv_omega
    rw [rangeFail_iff_of_le hreal, and_not_self_iff, false_iff]
    exact fun h => hnot h.1
  · have hsentinel : 9#4 ≤ j := by bv_omega
    rw [unsigned_sentinel_iff hsentinel, not_not]
    exact and_congr_left' (iff_of_true (rangeFail_sentinel hsentinel b) hsentinel)

/-- The ranges of the indices 1 to 7 lie inside 80 to BF (R18, R91 (e)). -/
theorem codeRange_continuation : ∀ {j : Index}, j ≠ 0 → j ≤ 7#4 → 0x80#8 ≤ rmin j ∧ rmax j ≤ 0xBF#8 := by decide

section
variable {n : Nat} {d : Datapath n} {v : Vector Byte n} {i : Nat}

/-- Below C0 the range index is a real one (R88). -/
theorem index_le_of_lt (h : lane v i < 0xC0#8) : index d v i ≤ 7#4 := by
  rw [index_of_lt h]
  exact laneDemand_toNat_le d v i

/-- From C0 on the range index is 8 or a sentinel (R88). -/
theorem index_eq_or_sentinel_of_le (h : 0xC0#8 ≤ lane v i) : index d v i = 8#4 ∨ 9#4 ≤ index d v i := by
  have hindex := index_toNat_of_le (d := d) h
  bv_omega

/-- A lane is flagged exactly when the plain unsigned test fails: the bytes on which that one differs reach no sentinel (R91 (c)). -/
theorem laneError_iff : laneError d v i = true ↔ lane v i < rmin (index d v i) ∨ rmax (index d v i) < lane v i := by
  by_cases hreal : index d v i ≤ 8#4
  · exact rangeFail_iff_of_le hreal _
  · have hsentinel : 9#4 ≤ index d v i := by bv_omega
    have hlead : ¬lane v i < 0xC0#8 := fun hlt => by
      have := index_le_of_lt (d := d) hlt
      bv_omega
    rw [laneError, unsigned_sentinel_iff hsentinel]
    exact iff_of_true (rangeFail_sentinel hsentinel _) (by bv_omega)

/-- A lane at index 8 is flagged exactly outside C2 to F4. -/
theorem laneError_of_index_eight (h : index d v i = 8#4) : laneError d v i = true ↔ lane v i < 0xC2#8 ∨ 0xF4#8 < lane v i := by
  rw [laneError_iff, h]
  rfl

theorem laneError_of_sentinel (h : 9#4 ≤ index d v i) : laneError d v i = true := rangeFail_sentinel h _

/-- C0, C1 and F5 to FF are flagged wherever they stand (R91 (d)). -/
theorem laneError_of_never_lead (h : lane v i = 0xC0#8 ∨ lane v i = 0xC1#8 ∨ 0xF5#8 ≤ lane v i) : laneError d v i = true := by
  rcases index_eq_or_sentinel_of_le (d := d) (show 0xC0#8 ≤ lane v i by bv_omega) with height | hsentinel
  · exact (laneError_of_index_eight height).mpr (by bv_omega)
  · exact laneError_of_sentinel hsentinel

/-- An ASCII byte is flagged exactly when something is demanded of it (R91 (e)). -/
theorem laneError_ascii_iff (h : lane v i < 0x80#8) : laneError d v i = true ↔ index d v i ≠ 0 := by
  rw [laneError_iff]
  constructor
  · rintro hout hzero
    rw [hzero, show rmin 0 = 0x00#8 from rfl, show rmax 0 = 0x7F#8 from rfl] at hout
    bv_omega
  · intro hne
    obtain ⟨hlow, -⟩ := codeRange_continuation hne (index_le_of_lt (by bv_omega))
    exact .inl (by bv_omega)

/-- A continuation byte is flagged exactly when none is demanded or it is outside the range demanded (R91 (f)). -/
theorem laneError_continuation_iff (h : 0x80#8 ≤ lane v i) :
    laneError d v i = true ↔ index d v i = 0 ∨ lane v i < rmin (index d v i) ∨ rmax (index d v i) < lane v i := by
  have hunclaimed : index d v i = 0 → rmax (index d v i) < lane v i := by
    intro hzero
    rw [hzero, show rmax 0 = 0x7F#8 from rfl]
    bv_omega
  rw [laneError_iff, or_iff_right_of_imp fun hzero => Or.inr (hunclaimed hzero)]

/-- A lead byte C2 to F4 is flagged exactly off index 8 (R91 (g)). -/
theorem laneError_lead_iff (hlow : 0xC2#8 ≤ lane v i) (hhigh : lane v i ≤ 0xF4#8) : laneError d v i = true ↔ index d v i ≠ 8 := by
  rcases index_eq_or_sentinel_of_le (d := d) (show 0xC0#8 ≤ lane v i by bv_omega) with height | hsentinel
  · rw [laneError_of_index_eight height, height]
    bv_omega
  · exact iff_of_true (laneError_of_sentinel hsentinel) (by bv_omega)

/-- On a carried state that meets R24 a lane without contributions has no correction either: the byte before it is no lead byte. -/
theorem laneCorr_eq_zero (hcounts : d.Classified) (h : c1 d v i = 0) : laneCorr d v i = 0 := by
  obtain ⟨h1, h2, h3⟩ := hcounts
  apply corr_eq_zero_of_ccnt
  rw [← xcc_eq_of_counts d v h1 h2 h3 _ (by omega)]
  exact h

/-- On a carried state that meets R24 a byte from C0 is off index 8 exactly when an earlier lead byte still claims its place. -/
theorem index_ne_eight_iff (hcounts : d.Classified) (h : 0xC0#8 ≤ lane v i) :
    index d v i ≠ 8 ↔ c1 d v i ≠ 0 ∨ c2 d v i ≠ 0 ∨ c3 d v i ≠ 0 := by
  have hindex := index_toNat_of_le (d := d) h
  have hzero : index d v i = 8 ↔ laneDemand d v i = 0 := by bv_omega
  rw [Ne, hzero, laneDemand, demand_eq_zero_iff _ _ _ (laneCorr_toNat_le d v i),
    and_iff_left_of_imp fun hnone => laneCorr_eq_zero hcounts hnone.1]
  tauto

end

end Sys2Proof.Machine
end

section
/-! SUPPORT. The extended sequences (R82): positions from 0 on are lanes, the three before are PIN and PCC, and rows of them are shifts
with carry-in (R100). -/

namespace Sys2Proof.Machine

/-- A row of a sequence over the integers, read `k` places back, is the row shifted by `k` with the `k` values before it carried in. -/
theorem shiftIn_range {α : Type} (f : Int → α) (k n : Nat) :
    shiftIn ((List.range k).map fun i : Nat => f ((i : Int) - k)) ((List.range n).map fun i : Nat => f i) =
      (List.range n).map fun i : Nat => f ((i : Int) - k) := by
  have hrow : ((List.range n).map fun i : Nat => f i) = ((List.range n).map (k + ·)).map fun i : Nat => f ((i : Int) - k) := by
    simp
  rw [shiftIn, List.length_map, List.length_range, hrow, ← List.map_append, ← List.range_add, ← List.map_take, List.take_range,
    Nat.min_eq_left (Nat.le_add_left n k)]

section
variable {n : Nat} (d : Datapath n) (v : Vector Byte n)

theorem map_lane_range : (List.range n).map (lane v) = v.toList := by
  apply List.ext_getElem (by simp)
  intro i hi _
  simp at hi
  simp [lane, hi]

/-- The bytes one place back are the block's bytes shifted by one, PIN[1] carried in (R87). -/
theorem xin_row_shift_one : (List.range n).map (fun i : Nat => xin d v ((i : Int) - 1)) = shiftIn [d.pin1] v.toList := by
  rw [← map_lane_range v]
  exact (shiftIn_range (xin d v) 1 n).symm

/-- What is applied to every element may be applied before a shift or after it (R100). -/
theorem map_shiftIn {α β : Type} (f : α → β) (carry row : List α) :
    (shiftIn carry row).map f = shiftIn (carry.map f) (row.map f) := by
  simp [shiftIn, List.map_take]

/-- A row of contributions: the counts `k` places back, less `b`, are the shifted counts less `b` (R84, R85). -/
theorem satsub_xcc_row (k : Nat) (b : Count) :
    (List.range n).map (fun i : Nat => satsub (xcc d v ((i : Int) - k)) b) =
      (shiftIn ((List.range k).map fun i : Nat => xcc d v ((i : Int) - k)) ((List.range n).map (laneCount v))).map
        fun c => satsub c b := by
  rw [show (List.range n).map (laneCount v) = (List.range n).map fun i : Nat => xcc d v i from rfl, shiftIn_range, List.map_map]
  rfl

/-- BLOCK reads one byte before the block: the flag of a lane does not depend on PIN[2] and PIN[3] (R82). -/
theorem laneError_with_older_pins (a b : Byte) (i : Nat) : laneError { d with pin2 := a, pin3 := b } v i = laneError d v i := by
  have hbyte : xin { d with pin2 := a, pin3 := b } v ((i : Int) - 1) = xin d v ((i : Int) - 1) := by
    cases i with
    | zero => rfl
    | succ i => rw [Nat.cast_succ, Int.add_sub_cancel]; rfl
  have hcounts (j : Int) : xcc { d with pin2 := a, pin3 := b } v j = xcc d v j := rfl
  simp only [laneError, index, index0, laneCorr, c1, c2, c3, hbyte, hcounts]

end

end Sys2Proof.Machine
end

section
/-! PROOFS. The family of 40_block_classify.md: NOP and an idle machine, the stages of BLOCK lane by lane, and the range test. -/

namespace Sys2Proof.Machine

/-- Settles O17: NOP leaves the datapath and has no response. -/
theorem nopChangesNothing : Obligations.NopChangesNothing := exec_eq .nop

/-- Settles O14, by induction on the steps: each one is the idle NOP, which leaves an idle machine with an empty port. -/
theorem idleHoldsState : Obligations.IdleHoldsState := by
  intro p k
  induction k with
  | zero =>
    intro s hidle hport
    exact coreWith_run_succ p 0 ((stepWith_idle_empty p hidle hport).trans (nopChangesNothing s))
  | succ k ih =>
    intro s hidle hport
    rw [coreWith_run_succ p (k + 1) ((stepWith_idle_empty p hidle hport).trans (nopChangesNothing s))]
    exact ih { s with rsp := none } hidle hport

/-- Settles O16: there is no fault to answer, and every command has its one next state. -/
theorem nothingFaults : Obligations.NothingFaults := ⟨fun _ _ f => (nomatch f), fun i s => ⟨_, exec_eq i s⟩⟩

/-- Settles O6, by the two branches of the subtraction. -/
theorem saturatingSubtraction : Obligations.SaturatingSubtraction := by
  intro a k _
  rw [satsub]
  split_ifs with hle
  · exact BitVec.toNat_sub_of_le hle
  · have hlt : a.toNat < k.toNat := Nat.lt_of_not_le hle
    simp [Nat.sub_eq_zero_of_le hlt.le]

/-- Settles O26: the positions are read off, and the flags lane by lane. -/
theorem extendedSequences : Obligations.ExtendedSequences := by
  refine fun n d v => ⟨fun j _ => ⟨rfl, rfl⟩, rfl, rfl, rfl, rfl, rfl, rfl, fun a b => ?_⟩
  rw [errorFlags, errorFlags, funext (laneError_with_older_pins d v a b)]

/-- Settles O19: the flags are EACC after BLOCK, whose bit is the old one or the range test of the lane. -/
theorem blockResult : Obligations.BlockResult := by
  refine fun lanes s => ⟨(s.dp.block lanes).eacc, rfl, fun i hi => ?_⟩
  rw [block_eacc_getLsbD s.dp lanes hi, Bool.or_eq_true, laneError, rangeFail, Bool.or_eq_true, decide_eq_true_eq, decide_eq_true_eq]
  rfl

/-- Settles O27: on a carried state that meets R24 the extended counts are those of the extended bytes, which the classes give. -/
theorem contributionsOfLeadBytes : Obligations.ContributionsOfLeadBytes := by
  refine ⟨fun _ _ _ _ => ⟨rfl, rfl, rfl⟩, fun n d v i hcounts _ => ?_⟩
  obtain ⟨h1, h2, h3⟩ := hcounts
  have hcount (k : Int) (hk : k ≤ 3) := xcc_eq_of_counts d v h1 h2 h3 (i - k) (by omega)
  refine ⟨?_, ?_, ?_⟩
  · rw [c1, hcount 1 (by decide), ccnt_highNibble]
  · rw [c2, hcount 2 (by decide), satsub_one_ccnt]
  · rw [c3, hcount 3 (by decide), satsub_two_ccnt]

/-- Settles O28: each row is a shift of counts or bytes, and the subtraction goes through the shift. -/
theorem shiftWithCarryIn : Obligations.ShiftWithCarryIn := by
  intro n d v
  refine ⟨(shiftIn_range (xcc d v) 1 n).symm, (satsub_xcc_row d v 2 1).trans (map_shiftIn _ _ _), satsub_xcc_row d v 2 1,
    (satsub_xcc_row d v 3 2).trans (map_shiftIn _ _ _), satsub_xcc_row d v 3 2, ?_⟩
  rw [show (List.range n >>= fun a => pure (a : Int)) = (List.range n).map fun a : Nat => (a : Int) from
    List.flatMap_pure_eq_map _ _, List.map_map]
  exact xin_row_shift_one d v

/-- Settles O29: the index is the demand below C0 and 8 more from C0 on, and every sum on the way stays below 16. -/
theorem indexRange : Obligations.IndexRange := by
  intro n d v i _
  have hdemand := laneDemand_toNat_le d v i
  refine ⟨fun hlt => ?_, fun hle => ?_, index_toNat d v i⟩
  · rw [index_of_lt hlt]
    exact hdemand
  · rw [index_toNat_of_le hle]
    omega

/-- Settles O30, one lemma for each form and each class of byte. -/
theorem rangeTestForms : Obligations.RangeTestForms := by
  refine ⟨fun b j h => rangeFail_iff_of_le h b, fun b j h => rangeFail_sentinel h b, rangeFail_and_unsigned_passes_iff,
    fun n d v i _ => ⟨laneError_iff, laneError_of_never_lead, laneError_ascii_iff, fun hlow _ => laneError_continuation_iff hlow,
      fun hlow hhigh => ⟨laneError_lead_iff hlow hhigh, fun hcounts => ?_⟩⟩⟩
  rw [laneError_lead_iff hlow hhigh, index_ne_eight_iff hcounts (by bv_omega)]

end Sys2Proof.Machine
end

section
/-! SUPPORT. The last bytes of a byte string, three bytes 0x00 standing before it (R25, R101): what E reads at the string's end, and what
BLOCK carries in PIN. -/

namespace Sys2Proof.Machine

/-- The byte `k + 1` before the end of a string, 0x00 before its start. -/
def recent (s : List Byte) (k : Nat) : Byte := s.reverse.getD k 0

@[simp] theorem recent_concat_zero (s : List Byte) (z : Byte) : recent (s ++ [z]) 0 = z := by simp [recent]

@[simp] theorem recent_concat_succ (s : List Byte) (z : Byte) (k : Nat) : recent (s ++ [z]) (k + 1) = recent s k := by simp [recent]

/-- The three bytes E reads before the end of a string are its most recent ones. -/
theorem withHistory_getD (s : List Byte) {k : Nat} (hk : k < 3) : (withHistory s).getD (s.length + 2 - k) 0 = recent s k := by
  have hreverse : (withHistory s).reverse = s.reverse ++ List.replicate 3 0x00#8 := by simp [withHistory, List.replicate]
  have hlength : (withHistory s).length = s.length + 3 := rfl
  have hlast : (withHistory s).getD (s.length + 2 - k) 0 = (withHistory s).reverse.getD k 0 := by
    rw [List.getD_eq_getElem?_getD, List.getD_eq_getElem?_getD, List.getElem?_reverse (by omega), hlength]
    rfl
  rw [hlast, hreverse, recent]
  by_cases hshort : k < s.length
  · rw [List.getD_append _ _ _ _ (by simpa using hshort)]
  · have hfill : k - s.length < 3 := by omega
    rw [List.getD_append_right _ _ _ _ (by simpa using hshort), List.getD_replicate _ (by simpa using hfill),
      List.getD_eq_default _ _ (by simpa using hshort)]
    rfl

/-- The flag of a byte does not depend on what follows it (R101). -/
theorem offsetError_append {s : List Byte} (t : List Byte) {p : Nat} (h : p < s.length) : offsetError (s ++ t) p = offsetError s p := by
  have hbyte {q : Nat} (hq : q < s.length + 3) : (withHistory (s ++ t)).getD q 0 = (withHistory s).getD q 0 :=
    List.getD_append (withHistory s) t 0 q hq
  simp only [offsetError]
  rw [hbyte (by omega), hbyte (by omega), hbyte (by omega), hbyte (by omega)]

/-- The flag of a byte after a string is E of the string's last three bytes and the byte (R101). -/
theorem offsetError_concat (s : List Byte) (z : Byte) :
    offsetError (s ++ [z]) s.length = byteError (recent s 2) (recent s 1) (recent s 0) z := by
  have hbefore {q : Nat} (hq : q < s.length + 3) : (withHistory (s ++ [z])).getD q 0 = (withHistory s).getD q 0 :=
    List.getD_append (withHistory s) [z] 0 q hq
  have hbyte : (withHistory (s ++ [z])).getD (s.length + 3) 0 = z := by simp [withHistory, List.getD_eq_getElem?_getD]
  have hfirst : (withHistory s).getD s.length 0 = recent s 2 := withHistory_getD s (k := 2) (by decide)
  have hsecond : (withHistory s).getD (s.length + 1) 0 = recent s 1 := withHistory_getD s (k := 1) (by decide)
  have hthird : (withHistory s).getD (s.length + 2) 0 = recent s 0 := withHistory_getD s (k := 0) (by decide)
  simp only [offsetError]
  rw [hbyte, hbefore (by omega), hbefore (by omega), hbefore (by omega), hfirst, hsecond, hthird]

section
variable {n : Nat}

theorem region_concat (blocks : List (Vector Byte n)) (v : Vector Byte n) : region (blocks ++ [v]) = region blocks ++ v.toList := by
  simp [region]

/-- Lane `i` of block `j` lies in the processed region. -/
theorem offset_lt_region_length (blocks : List (Vector Byte n)) {i j : Nat} (hi : i < n) (hj : j < blocks.length) :
    n * j + i < (region blocks).length := by
  rw [region_length]
  calc n * j + i < n * (j + 1) := by rw [Nat.mul_succ]; omega
    _ ≤ n * blocks.length := Nat.mul_le_mul_left n hj

/-- The most recent bytes after a block are its last lanes. -/
theorem recent_append_lanes (s : List Byte) (v : Vector Byte n) {k : Nat} (hk : k < n) :
    recent (s ++ v.toList) k = lane v (n - 1 - k) := by
  have hlast : n - 1 - k < n := by omega
  rw [recent, List.reverse_append, List.getD_append _ _ _ _ (by simpa using hk), List.getD_eq_getElem?_getD,
    List.getElem?_reverse (by simpa using hk), lane_of_lt v hlast]
  simp [hlast]

/-- PIN holds the last three bytes of the processed region, and bytes 0x00 where it has fewer (R22, R25, R93). -/
theorem afterBlocks_pins (hn : 3 ≤ n) (blocks : List (Vector Byte n)) :
    (afterBlocks blocks).pin1 = recent (region blocks) 0 ∧ (afterBlocks blocks).pin2 = recent (region blocks) 1 ∧
      (afterBlocks blocks).pin3 = recent (region blocks) 2 := by
  rcases List.eq_nil_or_concat blocks with rfl | ⟨before, v, rfl⟩
  · exact ⟨rfl, rfl, rfl⟩
  · rw [List.concat_eq_append, afterBlocks_append, region_concat, recent_append_lanes _ _ (by omega),
      recent_append_lanes _ _ (by omega), recent_append_lanes _ _ (by omega)]
    exact ⟨rfl, rfl, rfl⟩

/-- After any blocks the counts agree with the bytes (R24). -/
theorem afterBlocks_classified (blocks : List (Vector Byte n)) : (afterBlocks blocks).Classified := by
  rcases List.eq_nil_or_concat blocks with rfl | ⟨before, v, rfl⟩
  · exact Datapath.zero_classified n
  · rw [List.concat_eq_append, afterBlocks_append]
    exact Datapath.block_classified _ v

/-- The extended sequence of the next block is the end of the processed region and the block's lanes in a row: before lane `i` stand
the region and the lanes below `i` (R82, R101). -/
theorem recent_region_lanes (hn : 3 ≤ n) (blocks : List (Vector Byte n)) (v : Vector Byte n) {i k : Nat} (hi : i ≤ n) (hk : k < 3) :
    recent (region blocks ++ v.toList.take i) k = xin (afterBlocks blocks) v ((i : Int) - (k + 1)) := by
  induction i generalizing k with
  | zero =>
    obtain ⟨h1, h2, h3⟩ := afterBlocks_pins hn blocks
    rw [List.take_zero, List.append_nil]
    match k, hk with
    | 0, _ => exact h1.symm
    | 1, _ => exact h2.symm
    | 2, _ => exact h3.symm
  | succ i ih =>
    have hlane : v.toList.take (i + 1) = v.toList.take i ++ [lane v i] := by
      rw [lane_of_lt v (by omega), ← Vector.getElem_toList (by simpa using hi), List.take_concat_get']
    rw [hlane, ← List.append_assoc]
    cases k with
    | zero => rw [recent_concat_zero, Nat.cast_succ, Nat.cast_zero, zero_add, Int.add_sub_cancel]; rfl
    | succ k =>
      rw [recent_concat_succ, ih (by omega) (by omega)]
      congr 1
      omega

/-- The flag of a lane of the next block is E at the byte's offset (R101). -/
theorem laneError_afterBlocks (hn : 3 ≤ n) (blocks : List (Vector Byte n)) (v : Vector Byte n) {i : Nat} (hi : i < n) :
    laneError (afterBlocks blocks) v i = offsetError (region (blocks ++ [v])) (n * blocks.length + i) := by
  obtain ⟨h1, h2, h3⟩ := afterBlocks_classified blocks
  have hsplit : region (blocks ++ [v]) = (region blocks ++ v.toList.take i ++ [lane v i]) ++ v.toList.drop (i + 1) := by
    rw [region_concat, lane_of_lt v hi, List.append_assoc, List.append_assoc, List.singleton_append,
      ← Vector.getElem_toList (by simpa using hi), List.cons_getElem_drop_succ, List.take_append_drop]
  have hlength : (region blocks ++ v.toList.take i).length = n * blocks.length + i := by
    simp [region_length, hi.le]
  rw [hsplit, ← hlength, offsetError_append _ (by simp), offsetError_concat, laneError_eq_byteError _ v h1 h2 h3,
    recent_region_lanes hn blocks v hi.le (by decide), recent_region_lanes hn blocks v hi.le (by decide),
    recent_region_lanes hn blocks v hi.le (by decide)]
  rfl

/-- Bit `i` of EACC collects E over the `i`-th lanes of the blocks (R26, R101). -/
theorem afterBlocks_eacc_iff (hn : 3 ≤ n) (blocks : List (Vector Byte n)) {i : Nat} (hi : i < n) :
    (afterBlocks blocks).eacc.getLsbD i = true ↔ ∃ j < blocks.length, offsetError (region blocks) (n * j + i) = true := by
  induction blocks using List.reverseRecOn with
  | nil => simp [afterBlocks]
  | append_singleton blocks v ih =>
    have hearlier : ∀ j < blocks.length, offsetError (region (blocks ++ [v])) (n * j + i) = offsetError (region blocks) (n * j + i) := by
      intro j hj
      rw [region_concat]
      exact offsetError_append _ (offset_lt_region_length blocks hi hj)
    rw [afterBlocks_append, block_eacc_getLsbD _ _ hi, Bool.or_eq_true, ih, laneError_afterBlocks hn blocks v hi, List.length_append,
      List.length_singleton, Nat.exists_lt_succ_right]
    refine or_congr_left (exists_congr fun j => and_congr_right fun hj => ?_)
    rw [hearlier j hj]

/-- ERR_ANY after blocks: some byte of the processed region is flagged (R28, R101). -/
theorem afterBlocks_errAny_iff (hn : 3 ≤ n) (blocks : List (Vector Byte n)) :
    (afterBlocks blocks).errAny = true ↔ ∃ p < (region blocks).length, offsetError (region blocks) p = true := by
  rw [errAny_iff]
  constructor
  · rintro ⟨i, hi, hflag⟩
    obtain ⟨j, hj, herror⟩ := (afterBlocks_eacc_iff hn blocks hi).mp hflag
    exact ⟨n * j + i, offset_lt_region_length blocks hi hj, herror⟩
  · rintro ⟨p, hp, herror⟩
    have hi : p % n < n := Nat.mod_lt p (by omega)
    rw [region_length] at hp
    rw [← Nat.div_add_mod p n] at herror
    exact ⟨p % n, hi, (afterBlocks_eacc_iff hn blocks hi).mpr ⟨p / n, Nat.div_lt_of_lt_mul hp, herror⟩⟩

end

end Sys2Proof.Machine
end

section
/-! PROOFS. Locality: a byte's flag is one function of it and its three predecessors, at every block size. -/

namespace Sys2Proof.Machine

/-- Settles O50: lane by lane for the next block, over the blocks for EACC, over the region for ERR_ANY. -/
theorem errorsAreLocal : Obligations.ErrorsAreLocal := by
  intro n blocks hn
  have hthree : 3 ≤ n := by omega
  refine ⟨fun i hi => afterBlocks_eacc_iff hthree blocks hi, fun v i hi => ?_, afterBlocks_errAny_iff hthree blocks⟩
  rw [errorFlags_getLsbD _ v hi, laneError_afterBlocks hthree blocks v hi]

end Sys2Proof.Machine
end

section
/-! SUPPORT. The table of R127 by lead byte, in the terms of the range tables: which bytes begin a sequence, and the columns of what must
follow, each the range of an index that BLOCK computes. -/

namespace Sys2Proof.Machine

/-- Whether a byte begins a sequence: it lies in the range of its own base, 00 to 7F or C2 to F4. -/
def startsSequence (a : Byte) : Bool := (codeRange (rbase (highNibble a))).holds a

/-- The range index of the `i`-th byte after a lead byte, when nothing else is demanded: its contribution by the shift of `i + 1`
places, and the correction for the byte next to it (R83 to R87). -/
def columnIndex (a : Byte) : Nat → Index
  | 0 => demand (ccnt (highNibble a)) 0 0 (corr a)
  | 1 => demand 0 (satsub (ccnt (highNibble a)) 1) 0 0
  | _ => demand 0 0 (satsub (ccnt (highNibble a)) 2) 0

/-- The columns of the table behind a first byte: as many as its count. -/
def columnsAfter (a : Byte) : List ByteRange :=
  (List.range (ccnt (highNibble a)).toNat).map fun i => codeRange (columnIndex a i)

/-- The index of a column is one of 1 to 7, the continuation ranges (R18). -/
theorem columnIndex_bounds : ∀ a : Byte, ∀ i < (ccnt (highNibble a)).toNat, columnIndex a i ≠ 0 ∧ columnIndex a i ≤ 7#4 := by decide

/-- The rows of the table whose first column admits a byte: one, with the byte's columns behind it, or none (R127). -/
theorem sequenceRows_of_first : ∀ a : Byte,
    (sequenceRows.filter fun row => matchesRow (row.take 1) [a]).map List.tail =
      if startsSequence a then [columnsAfter a] else [] := by decide

/-- A first byte can always be continued: by the least byte of each column. -/
theorem isSequence_least : ∀ a : Byte, startsSequence a = true → isSequence (a :: (columnsAfter a).map ByteRange.lo) = true := by decide

theorem matchesRow_cons (row : List ByteRange) (a : Byte) (cs : List Byte) :
    matchesRow row (a :: cs) = (matchesRow (row.take 1) [a] && matchesRow row.tail cs) := by
  cases row <;> simp [matchesRow]

/-- A string is a sequence exactly when its first byte begins one and the rest matches that byte's columns. -/
theorem isSequence_cons (a : Byte) (cs : List Byte) :
    isSequence (a :: cs) = (startsSequence a && matchesRow (columnsAfter a) cs) := by
  have hrows : isSequence (a :: cs) =
      ((sequenceRows.filter fun row => matchesRow (row.take 1) [a]).map List.tail).any fun cols => matchesRow cols cs := by
    rw [List.any_map, List.any_filter, isSequence, funext fun row => matchesRow_cons row a cs]
    rfl
  rw [hrows, sequenceRows_of_first]
  cases startsSequence a <;> simp

theorem matchesRow_length {row : List ByteRange} {bs : List Byte} (h : matchesRow row bs = true) : bs.length = row.length := by
  induction bs generalizing row with
  | nil => cases row with
    | nil => rfl
    | cons r row => simp [matchesRow] at h
  | cons b bs ih => cases row with
    | nil => simp [matchesRow] at h
    | cons r row =>
      simp only [matchesRow, Bool.and_eq_true] at h
      simp [ih h.2]

/-- Every byte of a match lies in a column. -/
theorem exists_range_of_matchesRow {row : List ByteRange} {bs : List Byte} (h : matchesRow row bs = true) :
    ∀ b ∈ bs, ∃ r ∈ row, r.holds b = true := by
  induction bs generalizing row with
  | nil => simp
  | cons b bs ih => cases row with
    | nil => simp [matchesRow] at h
    | cons r row =>
      simp only [matchesRow, Bool.and_eq_true] at h
      obtain ⟨hfirst, hrest⟩ := h
      intro c hc
      rcases List.mem_cons.mp hc with rfl | hc
      · exact ⟨r, List.mem_cons_self, hfirst⟩
      · obtain ⟨q, hq, hholds⟩ := ih hrest c hc
        exact ⟨q, List.mem_cons_of_mem r hq, hholds⟩

/-- In a match the byte at one place may be changed for any other its column admits. -/
theorem matchesRow_change {row : List ByteRange} {cs more : List Byte} {b : Byte} (h : matchesRow row (cs ++ b :: more) = true) :
    ∃ r, row[cs.length]? = some r ∧ ∀ z, matchesRow row (cs ++ z :: more) = r.holds z := by
  induction cs generalizing row with
  | nil => cases row with
    | nil => simp [matchesRow] at h
    | cons r row =>
      simp only [List.nil_append, matchesRow, Bool.and_eq_true] at h
      exact ⟨r, rfl, fun z => by simp [matchesRow, h.2]⟩
  | cons c cs ih => cases row with
    | nil => simp [matchesRow] at h
    | cons q row =>
      simp only [List.cons_append, matchesRow, Bool.and_eq_true] at h
      obtain ⟨r, hr, hchange⟩ := ih h.2
      exact ⟨r, hr, fun z => by simp [matchesRow, h.1, hchange]⟩

/-- What matches columns behind a first byte are continuation bytes, with no count of their own. -/
theorem ccnt_of_matchesRow {a : Byte} {bs : List Byte} (h : matchesRow (columnsAfter a) bs = true) :
    ∀ b ∈ bs, ccnt (highNibble b) = 0 := by
  intro b hb
  obtain ⟨r, hr, hholds⟩ := exists_range_of_matchesRow h b hb
  obtain ⟨i, hi, rfl⟩ := List.mem_map.mp hr
  obtain ⟨hne, hle⟩ := columnIndex_bounds a i (List.mem_range.mp hi)
  obtain ⟨-, hmax⟩ := codeRange_continuation hne hle
  have hupper : b ≤ rmax (columnIndex a i) := of_decide_eq_true (Bool.and_eq_true_iff.mp hholds).2
  exact ccnt_highNibble_of_lt (by bv_omega)

theorem isSequence_ne_nil {q : List Byte} (h : isSequence q = true) : q ≠ [] := by
  rintro rfl
  exact absurd h (by decide)

end Sys2Proof.Machine
end

section
/-! SUPPORT. What the end of a string demands of the next byte: nothing after whole sequences, and the next column of the table after an
incomplete one. -/

namespace Sys2Proof.Machine

/-- What a string demands of the byte after it. -/
def nextDemand (s : List Byte) : Index :=
  demand (ccnt (highNibble (recent s 0))) (satsub (ccnt (highNibble (recent s 1))) 1) (satsub (ccnt (highNibble (recent s 2))) 2)
    (corr (recent s 0))

/-- The flag of the byte after a string is the range test at its base plus the string's demand. -/
theorem offsetError_concat_demand (s : List Byte) (z : Byte) :
    offsetError (s ++ [z]) s.length = rangeFail z (rbase (highNibble z) + nextDemand s) := by
  rw [offsetError_concat, byteError, combine_rbase, BitVec.add_assoc]
  rfl

/-- A string in which every lead byte has the continuation bytes it asks for behind it. -/
def Settled (s : List Byte) : Prop := ∀ k, (ccnt (highNibble (recent s k))).toNat ≤ k

theorem settled_nil : Settled [] := fun k => by simp [recent, show ccnt (highNibble 0#8) = 0#2 by decide]

theorem satsub_eq_zero : ∀ {c k : Count}, c.toNat ≤ k.toNat → satsub c k = 0 := by decide

/-- After a settled string nothing is demanded. -/
theorem Settled.nextDemand_eq_zero {s : List Byte} (h : Settled s) : nextDemand s = 0 := by
  have hcount : ccnt (highNibble (recent s 0)) = 0 := BitVec.eq_of_toNat_eq (Nat.le_zero.mp (h 0))
  rw [nextDemand, satsub_eq_zero (k := 1) (h 1), satsub_eq_zero (k := 2) (h 2), hcount, corr_eq_zero_of_ccnt _ hcount]
  rfl

theorem recent_append_mem (s : List Byte) {t : List Byte} {k : Nat} (hk : k < t.length) : recent (s ++ t) k ∈ t := by
  rw [recent, List.reverse_append, List.getD_append _ _ _ _ (by simpa using hk), List.getD_eq_getElem _ _ (by simpa using hk),
    ← List.mem_reverse]
  exact List.getElem_mem _

theorem recent_append_right (s t : List Byte) (k : Nat) : recent (s ++ t) (t.length + k) = recent s k := by
  rw [recent, List.reverse_append, List.getD_append_right _ _ _ _ (by simp)]
  simp [recent]

/-- A settled string followed by a sequence is settled. -/
theorem Settled.append_sequence {s q : List Byte} (h : Settled s) (hq : isSequence q = true) : Settled (s ++ q) := by
  obtain ⟨a, cs, rfl⟩ := List.exists_cons_of_ne_nil (isSequence_ne_nil hq)
  rw [isSequence_cons, Bool.and_eq_true] at hq
  obtain ⟨-, hcolumns⟩ := hq
  have hlength : cs.length = (ccnt (highNibble a)).toNat := by simpa [columnsAfter] using matchesRow_length hcolumns
  rw [List.append_cons]
  intro k
  by_cases hk : k < cs.length
  · rw [ccnt_of_matchesRow hcolumns _ (recent_append_mem (s ++ [a]) hk)]
    exact Nat.zero_le k
  · obtain ⟨j, rfl⟩ := Nat.exists_eq_add_of_le (Nat.le_of_not_lt hk)
    rw [recent_append_right]
    cases j with
    | zero => simp [hlength]
    | succ j =>
      rw [recent_concat_succ]
      exact (h j).trans (by omega)

/-- Whole sequences leave a settled string. -/
theorem WF.settled {s : List Byte} (h : WF s) : Settled s := by
  obtain ⟨seqs, hseqs, rfl⟩ := h
  induction seqs using List.reverseRecOn with
  | nil => exact settled_nil
  | append_singleton seqs q ih =>
    rw [List.flatten_concat]
    exact (ih fun p hp => hseqs p (by simp [hp])).append_sequence (hseqs q (by simp))

/-- After whole sequences a byte is flagged exactly when it begins none. -/
theorem Settled.offsetError_eq {s : List Byte} (h : Settled s) (z : Byte) :
    offsetError (s ++ [z]) s.length = !startsSequence z := by
  have hbase : rbase (highNibble z) ≤ 8#4 := rbase_toNat_le _
  rw [offsetError_concat_demand, h.nextDemand_eq_zero, BitVec.ofNat_eq_ofNat, BitVec.add_zero, rangeFail_eq_not_holds hbase,
    startsSequence]

/-- After a settled string and a lead byte with some continuation bytes, the next column's index is demanded. -/
theorem Settled.nextDemand_sequence {s : List Byte} (h : Settled s) (a : Byte) {cs : List Byte}
    (hcs : ∀ b ∈ cs, ccnt (highNibble b) = 0) (hlength : cs.length < 3) : nextDemand (s ++ a :: cs) = columnIndex a cs.length := by
  have hnone {k : Count} : satsub 0 k = 0 := satsub_eq_zero (Nat.zero_le _)
  match cs, hlength with
  | [], _ =>
    have h1 := satsub_eq_zero (k := 1) ((h 0).trans (by decide))
    have h2 := satsub_eq_zero (k := 2) ((h 1).trans (by decide))
    rw [nextDemand, recent_concat_zero, recent_concat_succ, recent_concat_succ, h1, h2]
    rfl
  | [b], _ =>
    have hb : ccnt (highNibble b) = 0 := hcs b (by simp)
    have h2 := satsub_eq_zero (k := 2) ((h 0).trans (by decide))
    rw [List.append_cons, nextDemand]
    simp only [recent_concat_zero, recent_concat_succ]
    rw [h2, hb, corr_eq_zero_of_ccnt b hb]
    rfl
  | [b, c], _ =>
    have hb : ccnt (highNibble b) = 0 := hcs b (by simp)
    have hc : ccnt (highNibble c) = 0 := hcs c (by simp)
    rw [List.append_cons, List.append_cons, nextDemand]
    simp only [recent_concat_zero, recent_concat_succ]
    rw [hb, hc, corr_eq_zero_of_ccnt c hc, hnone]
    rfl

/-- At a demand of 1 to 7 the range test passes exactly the range demanded: a lead byte, whose base is 8, runs into a sentinel. -/
theorem rangeFail_demanded {j : Index} (hne : j ≠ 0) (hle : j ≤ 7#4) (z : Byte) :
    rangeFail z (rbase (highNibble z) + j) = !(codeRange j).holds z := by
  rw [rbase_highNibble]
  split_ifs with hlead
  · rw [BitVec.zero_add]
    exact rangeFail_eq_not_holds (by bv_omega) z
  · obtain ⟨-, hmax⟩ := codeRange_continuation hne hle
    have habove : (z ≤ rmax j) = False := eq_false (by bv_omega)
    rw [rangeFail_sentinel (by bv_omega)]
    simp [codeRange, ByteRange.holds, habove]

/-- Inside a sequence behind whole ones, a byte in the next place is flagged exactly when it does not fit the table there. -/
theorem Settled.offsetError_sequence {s : List Byte} (h : Settled s) {a b : Byte} {cs more : List Byte}
    (hseq : isSequence (a :: cs ++ b :: more) = true) (z : Byte) :
    offsetError (s ++ a :: cs ++ [z]) (s ++ a :: cs).length = !isSequence (a :: cs ++ z :: more) := by
  rw [List.cons_append, isSequence_cons, Bool.and_eq_true] at hseq
  obtain ⟨hstart, hcolumns⟩ := hseq
  obtain ⟨r, hr, hchange⟩ := matchesRow_change hcolumns
  obtain ⟨hplace, rfl⟩ := List.getElem?_eq_some_iff.mp hr
  have hi : cs.length < (ccnt (highNibble a)).toNat := by simpa [columnsAfter] using hplace
  have hcolumn : (columnsAfter a)[cs.length] = codeRange (columnIndex a cs.length) := by simp [columnsAfter]
  obtain ⟨hne, hle⟩ := columnIndex_bounds a cs.length hi
  have hcs : ∀ c ∈ cs, ccnt (highNibble c) = 0 := fun c hc => ccnt_of_matchesRow hcolumns c (by simp [hc])
  rw [offsetError_concat_demand, h.nextDemand_sequence a hcs (by omega), rangeFail_demanded hne hle, List.cons_append,
    isSequence_cons, hstart, hchange, hcolumn, Bool.true_and]

end Sys2Proof.Machine
end

section
/-! SUPPORT. Strings that begin a well-formed one: whole sequences and at most one incomplete sequence (R102). They grow by exactly the
bytes E does not flag. -/

namespace Sys2Proof.Machine

/-- Well-formed sequences followed by at most one incomplete sequence. -/
def BeginsWellFormed (s : List Byte) : Prop := ∃ whole cut, s = whole ++ cut ∧ WF whole ∧ (cut = [] ∨ Incomplete cut)

theorem WF.beginsWellFormed {s : List Byte} (h : WF s) : BeginsWellFormed s := ⟨s, [], (List.append_nil s).symm, h, .inl rfl⟩

/-- Nothing or an incomplete sequence: what lacks at least one byte to a sequence. -/
theorem cut_iff (cut : List Byte) : (cut = [] ∨ Incomplete cut) ↔ ∃ b more, isSequence (cut ++ b :: more) = true := by
  constructor
  · rintro (rfl | ⟨-, more, hmore, hseq⟩)
    · exact ⟨0x41#8, [], by decide⟩
    · obtain ⟨b, more, rfl⟩ := List.exists_cons_of_ne_nil hmore
      exact ⟨b, more, hseq⟩
  · rintro ⟨b, more, hseq⟩
    by_cases hcut : cut = []
    · exact .inl hcut
    · exact .inr ⟨hcut, b :: more, List.cons_ne_nil b more, hseq⟩

/-- A well-formed string that is not empty ends with a sequence. -/
theorem WF.exists_last_sequence {s : List Byte} (h : WF s) (hne : s ≠ []) :
    ∃ whole q, s = whole ++ q ∧ WF whole ∧ isSequence q = true := by
  obtain ⟨seqs, hseqs, rfl⟩ := h
  rcases List.eq_nil_or_concat seqs with rfl | ⟨before, q, rfl⟩
  · exact absurd rfl hne
  · rw [List.concat_eq_append] at hseqs ⊢
    exact ⟨before.flatten, q, List.flatten_concat, ⟨before, fun p hp => hseqs p (by simp [hp]), rfl⟩, hseqs q (by simp)⟩

/-- The last byte of a string that begins a well-formed one stands in a sequence, which may go on behind it. -/
theorem beginsWellFormed_concat_iff (s : List Byte) (z : Byte) :
    BeginsWellFormed (s ++ [z]) ↔ ∃ whole cut more, s = whole ++ cut ∧ WF whole ∧ isSequence (cut ++ z :: more) = true := by
  have hlast {whole q : List Byte} (hsplit : s ++ [z] = whole ++ q) (hq : q ≠ []) : ∃ cut, q = cut ++ [z] ∧ s = whole ++ cut := by
    obtain ⟨cut, y, rfl⟩ := (List.eq_nil_or_concat' q).resolve_left hq
    rw [← List.append_assoc] at hsplit
    obtain ⟨hs, hz⟩ := List.append_inj' hsplit rfl
    rw [List.singleton_inj.mp hz]
    exact ⟨cut, rfl, hs⟩
  constructor
  · rintro ⟨whole, cut, hsplit, hwhole, rfl | ⟨hne, more, -, hseq⟩⟩
    · rw [List.append_nil] at hsplit
      obtain ⟨before, q, rfl, hbefore, hq⟩ := hwhole.exists_last_sequence (by simp [← hsplit])
      obtain ⟨cut, rfl, hs⟩ := hlast hsplit (isSequence_ne_nil hq)
      exact ⟨before, cut, [], hs, hbefore, hq⟩
    · obtain ⟨cut, rfl, hs⟩ := hlast hsplit hne
      exact ⟨whole, cut, more, hs, hwhole, by simpa using hseq⟩
  · rintro ⟨whole, cut, more, rfl, hwhole, hseq⟩
    rw [List.append_cons] at hseq
    cases more with
    | nil => exact (List.append_assoc whole cut [z] ▸ hwhole.append (.single (by simpa using hseq))).beginsWellFormed
    | cons b more =>
      exact ⟨whole, cut ++ [z], List.append_assoc whole cut [z], hwhole, (cut_iff _).mpr ⟨b, more, hseq⟩⟩

/-- What begins a string that begins a well-formed one does so too. -/
theorem BeginsWellFormed.of_append {s t : List Byte} (h : BeginsWellFormed (s ++ t)) : BeginsWellFormed s := by
  induction t using List.reverseRecOn with
  | nil => rwa [List.append_nil] at h
  | append_singleton t z ih =>
    rw [← List.append_assoc, beginsWellFormed_concat_iff] at h
    obtain ⟨whole, cut, more, hsplit, hwhole, hseq⟩ := h
    exact ih ⟨whole, cut, hsplit, hwhole, (cut_iff cut).mpr ⟨z, more, hseq⟩⟩

/-- The two forms of the guarantee of R102. -/
theorem beginsWellFormed_iff_exists_append (s : List Byte) : BeginsWellFormed s ↔ ∃ more, WF (s ++ more) := by
  constructor
  · rintro ⟨whole, cut, rfl, hwhole, rfl | ⟨-, more, -, hseq⟩⟩
    · exact ⟨[], by simpa using hwhole⟩
    · exact ⟨more, List.append_assoc whole cut more ▸ hwhole.append (.single hseq)⟩
  · rintro ⟨more, h⟩
    exact h.beginsWellFormed.of_append

/-- A string that begins a well-formed one goes on doing so exactly with the bytes E does not flag. -/
theorem beginsWellFormed_concat_iff_offsetError (s : List Byte) (z : Byte) :
    BeginsWellFormed (s ++ [z]) ↔ BeginsWellFormed s ∧ offsetError (s ++ [z]) s.length = false := by
  constructor
  · intro h
    refine ⟨h.of_append, ?_⟩
    obtain ⟨whole, cut, more, rfl, hwhole, hseq⟩ := (beginsWellFormed_concat_iff s z).mp h
    cases cut with
    | nil =>
      rw [List.nil_append, isSequence_cons, Bool.and_eq_true] at hseq
      rw [List.append_nil, hwhole.settled.offsetError_eq, hseq.1, Bool.not_true]
    | cons a cs => rw [hwhole.settled.offsetError_sequence hseq, hseq, Bool.not_true]
  · rintro ⟨⟨whole, cut, rfl, hwhole, hcut⟩, hpass⟩
    obtain ⟨b, more, hseq⟩ := (cut_iff cut).mp hcut
    rw [beginsWellFormed_concat_iff]
    cases cut with
    | nil =>
      rw [List.append_nil, hwhole.settled.offsetError_eq, Bool.not_eq_false'] at hpass
      exact ⟨whole, [], _, rfl, hwhole, isSequence_least z hpass⟩
    | cons a cs =>
      rw [hwhole.settled.offsetError_sequence hseq, Bool.not_eq_false'] at hpass
      exact ⟨whole, a :: cs, more, rfl, hwhole, hpass⟩

/-- E flags no byte of a string exactly when the string begins a well-formed one (R102). -/
theorem forall_offsetError_iff (s : List Byte) : (∀ p < s.length, offsetError s p = false) ↔ BeginsWellFormed s := by
  induction s using List.reverseRecOn with
  | nil => exact iff_of_true (by simp) (WF.beginsWellFormed ⟨[], by simp, rfl⟩)
  | append_singleton s z ih =>
    rw [beginsWellFormed_concat_iff_offsetError, ← ih, List.length_append, List.length_singleton, Nat.forall_lt_succ_right]
    refine and_congr_left fun _ => forall₂_congr fun p hp => ?_
    rw [offsetError_append [z] hp]

/-- After blocks no flag is set exactly when the processed region begins a well-formed string (R102). -/
theorem afterBlocks_errAny_eq_false_iff {n : Nat} (hn : 3 ≤ n) (blocks : List (Vector Byte n)) :
    (afterBlocks blocks).errAny = false ↔ BeginsWellFormed (region blocks) := by
  rw [← forall_offsetError_iff, ← Bool.not_eq_true, afterBlocks_errAny_iff hn]
  simp

end Sys2Proof.Machine
end

section
/-! PROOFS. The exact guarantee of BLOCK: what it means that no flag is set. -/

namespace Sys2Proof.Machine

/-- Settles O51: both forms say that the region begins a well-formed string. -/
theorem noFlagIffRegionBeginsWellFormed : Obligations.NoFlagIffRegionBeginsWellFormed := by
  intro n blocks hn
  have hflag := afterBlocks_errAny_eq_false_iff (n := n) (by omega) blocks
  exact ⟨hflag.trans (beginsWellFormed_iff_exists_append _), hflag⟩

end Sys2Proof.Machine
end

section
/-! SUPPORT. Sequences read off the front of a string in one way only: a first byte fixes how long its sequence is (R127), so a
well-formed front may be cut off. -/

namespace Sys2Proof.Machine

/-- A sequence has as many bytes after its first as the first byte's count (R16, R127). -/
theorem length_of_isSequence_cons {a : Byte} {cs : List Byte} (h : isSequence (a :: cs) = true) :
    cs.length = (ccnt (highNibble a)).toNat := by
  rw [isSequence_cons, Bool.and_eq_true] at h
  simpa [columnsAfter] using matchesRow_length h.2

/-- Every byte of a sequence but its first is a continuation byte, 80 to BF (R127). -/
theorem continuation_of_isSequence_cons {a : Byte} {cs : List Byte} (h : isSequence (a :: cs) = true) :
    ∀ z ∈ cs, 0x80#8 ≤ z ∧ z ≤ 0xBF#8 := by
  rw [isSequence_cons, Bool.and_eq_true] at h
  obtain ⟨-, hcolumns⟩ := h
  intro z hz
  obtain ⟨r, hr, hholds⟩ := exists_range_of_matchesRow hcolumns z hz
  obtain ⟨i, hi, rfl⟩ := List.mem_map.mp hr
  obtain ⟨hne, hle⟩ := columnIndex_bounds a i (List.mem_range.mp hi)
  obtain ⟨hmin, hmax⟩ := codeRange_continuation hne hle
  rw [ByteRange.holds, Bool.and_eq_true] at hholds
  obtain ⟨hlo, hhi⟩ := hholds
  exact ⟨BitVec.le_trans hmin (of_decide_eq_true hlo), BitVec.le_trans (of_decide_eq_true hhi) hmax⟩

/-- A string begins with at most one sequence. -/
theorem isSequence_append_inj {q p s t : List Byte} (hq : isSequence q = true) (hp : isSequence p = true)
    (h : q ++ s = p ++ t) : q = p ∧ s = t := by
  obtain ⟨a, cs, rfl⟩ := List.exists_cons_of_ne_nil (isSequence_ne_nil hq)
  obtain ⟨b, ds, rfl⟩ := List.exists_cons_of_ne_nil (isSequence_ne_nil hp)
  obtain ⟨rfl, -⟩ := List.cons.inj h
  refine List.append_inj h ?_
  simp [length_of_isSequence_cons hq, length_of_isSequence_cons hp]

/-- The first sequence of a well-formed string may be cut off. -/
theorem WF.of_sequence_append {q t : List Byte} (hq : isSequence q = true) (h : WF (q ++ t)) : WF t := by
  obtain ⟨seqs, hseqs, hsplit⟩ := h
  cases seqs with
  | nil => exact absurd (List.append_eq_nil_iff.mp hsplit).1 (isSequence_ne_nil hq)
  | cons p seqs =>
    obtain ⟨-, rfl⟩ := isSequence_append_inj hq (hseqs p List.mem_cons_self) hsplit
    exact ⟨seqs, fun x hx => hseqs x (List.mem_cons_of_mem p hx), rfl⟩

/-- Behind well-formed bytes a string is well formed exactly when the whole is. -/
theorem WF.append_iff {s t : List Byte} (hs : WF s) : WF (s ++ t) ↔ WF t := by
  refine ⟨fun h => ?_, hs.append⟩
  obtain ⟨seqs, hseqs, rfl⟩ := hs
  induction seqs with
  | nil => exact h
  | cons q seqs ih =>
    rw [List.flatten_cons, List.append_assoc] at h
    exact ih (fun p hp => hseqs p (List.mem_cons_of_mem q hp)) (h.of_sequence_append (hseqs q List.mem_cons_self))

end Sys2Proof.Machine
end

section
/-! SUPPORT. The rewind (R108, R112): going back from the end of a string to a byte that is no continuation byte, or staying at the end
when no lead byte is within reach, leaves complete sequences. -/

namespace Sys2Proof.Machine

/-- Where a rewind of the end of a string by some bytes may stop: at the end when none of the last three bytes is above BF, else at a
byte of the string that is no continuation byte. LA and the alternative of R113 both stop at such places. -/
def RewindStops (s : List Byte) : Nat → Prop
  | 0 => ∀ j < 3, recent s j ≤ 0xBF#8
  | k + 1 => k < s.length ∧ ¬(0x80#8 ≤ recent s k ∧ recent s k ≤ 0xBF#8)

theorem RewindStops.le_length {s : List Byte} {k : Nat} (h : RewindStops s k) : k ≤ s.length := by
  cases k with
  | zero => exact Nat.zero_le _
  | succ k => exact h.1

theorem recent_of_length_le {s : List Byte} {k : Nat} (h : s.length ≤ k) : recent s k = 0x00#8 :=
  List.getD_eq_default _ _ (by simpa using h)

/-- In a string that begins a well-formed one, the bytes before one that is no continuation byte are complete sequences. -/
theorem BeginsWellFormed.wf_before {s t : List Byte} {z : Byte} (h : BeginsWellFormed (s ++ z :: t))
    (hz : ¬(0x80#8 ≤ z ∧ z ≤ 0xBF#8)) : WF s := by
  rw [List.append_cons] at h
  obtain ⟨whole, cut, more, rfl, hwhole, hseq⟩ := (beginsWellFormed_concat_iff s z).mp h.of_append
  cases cut with
  | nil => rwa [List.append_nil]
  | cons a cs => exact absurd (continuation_of_isSequence_cons hseq z (by simp)) hz

/-- An incomplete sequence at the end of a string begins with a lead byte among the last three bytes (R102, R111). -/
theorem recent_of_incomplete (whole : List Byte) {a b : Byte} {cs more : List Byte} (hseq : isSequence (a :: cs ++ b :: more) = true) :
    cs.length < 3 ∧ 0xBF#8 < recent (whole ++ a :: cs) cs.length := by
  have hlength : (cs ++ b :: more).length = (ccnt (highNibble a)).toNat := length_of_isSequence_cons hseq
  rw [List.length_append, List.length_cons] at hlength
  have hlead : ¬a < 0xC0#8 := by
    intro hlow
    rw [ccnt_highNibble_of_lt hlow] at hlength
    exact absurd hlength (by simp)
  have hrecent : recent (whole ++ a :: cs) cs.length = a := by
    rw [List.append_cons]
    exact (recent_append_right (whole ++ [a]) cs 0).trans (recent_concat_zero whole a)
  exact ⟨by omega, by rw [hrecent]; bv_omega⟩

/-- A string that begins a well-formed one, with no lead byte among its last three, has no incomplete sequence at its end. -/
theorem BeginsWellFormed.wf_of_no_lead {s : List Byte} (h : BeginsWellFormed s) (hlow : ∀ j < 3, recent s j ≤ 0xBF#8) : WF s := by
  obtain ⟨whole, cut, rfl, hwhole, hcut⟩ := h
  obtain ⟨b, more, hseq⟩ := (cut_iff cut).mp hcut
  cases cut with
  | nil => rwa [List.append_nil]
  | cons a cs =>
    obtain ⟨hreach, hlead⟩ := recent_of_incomplete whole hseq
    exact absurd hlead (BitVec.not_lt.mpr (hlow _ hreach))

/-- The bytes before the place where a rewind stops are complete sequences (R112). -/
theorem BeginsWellFormed.wf_take_of_rewindStops {s : List Byte} {k : Nat} (h : BeginsWellFormed s) (hk : RewindStops s k) :
    WF (s.take (s.length - k)) := by
  cases k with
  | zero => simpa using h.wf_of_no_lead hk
  | succ k =>
    obtain ⟨hlt, hstop⟩ := hk
    have hplace : s.length - (k + 1) < s.length := by omega
    have hbyte : s[s.length - (k + 1)] = recent s k := by
      rw [recent, List.getD_eq_getElem _ _ (by simpa using hlt), List.getElem_reverse]
      congr 1
      omega
    refine BeginsWellFormed.wf_before (z := recent s k) (t := s.drop (s.length - (k + 1) + 1)) ?_ hstop
    rwa [← hbyte, List.cons_getElem_drop_succ, List.take_append_drop]

/-! LA by cases of the carried bytes (R108). -/

theorem isLead_iff (b : Byte) : isLead b = true ↔ 0xBF#8 < b := decide_eq_true_iff

section
variable {n : Nat} {d : Datapath n}

theorem Datapath.lookahead_eq_one (h1 : 0xBF#8 < d.pin1) : d.lookahead = 1#2 := if_pos ((isLead_iff _).mpr h1)

theorem Datapath.lookahead_eq_two (h1 : d.pin1 ≤ 0xBF#8) (h2 : 0xBF#8 < d.pin2) : d.lookahead = 2#2 := by
  simp [Datapath.lookahead, isLead_iff, BitVec.not_lt.mpr h1, h2]

theorem Datapath.lookahead_eq_three (h1 : d.pin1 ≤ 0xBF#8) (h2 : d.pin2 ≤ 0xBF#8) (h3 : 0xBF#8 < d.pin3) : d.lookahead = 3#2 := by
  simp [Datapath.lookahead, isLead_iff, BitVec.not_lt.mpr h1, BitVec.not_lt.mpr h2, h3]

theorem Datapath.lookahead_eq_zero (h1 : d.pin1 ≤ 0xBF#8) (h2 : d.pin2 ≤ 0xBF#8) (h3 : d.pin3 ≤ 0xBF#8) : d.lookahead = 0#2 := by
  simp [Datapath.lookahead, isLead_iff, BitVec.not_lt.mpr h1, BitVec.not_lt.mpr h2, BitVec.not_lt.mpr h3]

end

/-- A byte above BF near the end of a string is one of its bytes, and a rewind may stop there. -/
theorem rewindStops_of_lead {s : List Byte} {k : Nat} (h : 0xBF#8 < recent s k) : RewindStops s (k + 1) := by
  refine ⟨?_, fun hcontinuation => absurd h (BitVec.not_lt.mpr hcontinuation.2)⟩
  by_contra hshort
  rw [recent_of_length_le (Nat.le_of_not_lt hshort)] at h
  exact absurd h (by decide)

/-- A lookahead rule (of the cursor and the datapath) that after any blocks stops the rewind at the start of a sequence. -/
def StopsRewind (n : Nat) (look : Nat → Datapath n → Nat) : Prop :=
  ∀ blocks : List (Vector Byte n), RewindStops (region blocks) (look (region blocks).length (afterBlocks blocks))

/-- With no byte above BF among its last three bytes a rewind may stay at the end of a string. -/
theorem rewindStops_zero {s : List Byte} (h1 : recent s 0 ≤ 0xBF#8) (h2 : recent s 1 ≤ 0xBF#8) (h3 : recent s 2 ≤ 0xBF#8) :
    RewindStops s 0
  | 0, _ => h1
  | 1, _ => h2
  | 2, _ => h3

/-- LA goes back to the nearest lead byte, or stays at the end when none is within reach (R108). -/
theorem lookahead_stopsRewind {n : Nat} (hn : 3 ≤ n) : StopsRewind n fun _ d => d.lookahead.toNat := by
  intro blocks
  obtain ⟨hpin1, hpin2, hpin3⟩ := afterBlocks_pins hn blocks
  simp only [Datapath.lookahead, isLead_iff, hpin1, hpin2, hpin3]
  split_ifs with h1 h2 h3
  · exact rewindStops_of_lead h1
  · exact rewindStops_of_lead h2
  · exact rewindStops_of_lead h3
  · exact rewindStops_zero (BitVec.not_lt.mp h1) (BitVec.not_lt.mp h2) (BitVec.not_lt.mp h3)

/-- The lead test of R113: the byte is no continuation byte. -/
theorem alternativeStop_iff (b : Byte) : (!(0x80#8 ≤ b && b ≤ 0xBF#8)) = true ↔ ¬(0x80#8 ≤ b ∧ b ≤ 0xBF#8) := by
  rw [← Bool.decide_and, Bool.not_eq_true', decide_eq_false_iff_not]

/-- The alternative test goes back to the nearest byte that is no continuation byte, once a block has run (R113). -/
theorem alternativeLookahead_stopsRewind {n : Nat} (hn : 3 ≤ n) : StopsRewind n alternativeLookahead := by
  intro blocks
  obtain ⟨hpin1, hpin2, hpin3⟩ := afterBlocks_pins hn blocks
  by_cases hempty : (region blocks).length = 0
  · have hzero (j : Nat) : recent (region blocks) j ≤ 0xBF#8 := by
      rw [recent_of_length_le (by omega)]
      decide
    rw [alternativeLookahead, if_pos hempty]
    exact rewindStops_zero (hzero 0) (hzero 1) (hzero 2)
  · have hlong : 3 ≤ (region blocks).length := by
      rw [region_length] at hempty ⊢
      exact hn.trans (Nat.le_mul_of_pos_right n (Nat.pos_of_mul_pos_left (Nat.pos_of_ne_zero hempty)))
    have hreach {k : Nat} (hk : k < 3) : k < (region blocks).length := hk.trans_le hlong
    rw [alternativeLookahead, if_neg hempty]
    simp only [alternativeStop_iff, hpin1, hpin2, hpin3]
    split_ifs with h1 h2 h3
    · exact rewindStops_zero h1.2 h2.2 h3.2
    · exact ⟨hreach (by decide), h3⟩
    · exact ⟨hreach (by decide), h2⟩
    · exact ⟨hreach (by decide), h1⟩

end Sys2Proof.Machine
end

section
/-! SUPPORT. The verdict of VALIDATE under any lookahead rule that stops the rewind where it should: the processed region is the front of
the buffer, what the rewind leaves of it are complete sequences, and VALID decides well-formedness. -/

namespace Sys2Proof.Machine

/-- The lanes of a block of the buffer are its next N bytes (R44). -/
theorem blockAt_toList {n : Nat} {buffer : List Byte} {pos : Nat} (h : pos + n ≤ buffer.length) :
    (blockAt n buffer pos).toList = (buffer.drop pos).take n := by
  apply List.ext_getElem
  · simp
    omega
  · intro i hi _
    have hplace : pos + i < buffer.length := by
      rw [Vector.length_toList] at hi
      omega
    simp [blockAt, List.getD_eq_getElem?_getD, hplace]

/-- The processed region of the first `k` blocks is the front of the buffer (R14). -/
theorem region_leadingBlocks {n : Nat} {buffer : List Byte} {k : Nat} (h : n * k ≤ buffer.length) :
    region (leadingBlocks n buffer k) = buffer.take (n * k) := by
  induction k with
  | zero => simp [leadingBlocks, region]
  | succ k ih =>
    rw [Nat.mul_succ] at h ⊢
    rw [leadingBlocks_succ, region_concat, ih (by omega), blockAt_toList h, List.take_add]

/-- The whole blocks of a buffer, those VALIDATE processes (R116). -/
def wholeBlocks (n : Nat) (buffer : List Byte) : List (Vector Byte n) := leadingBlocks n buffer (buffer.length / n)

/-- The processed region is the front of the buffer. -/
theorem region_wholeBlocks (n : Nat) (buffer : List Byte) :
    region (wholeBlocks n buffer) = buffer.take (region (wholeBlocks n buffer)).length := by
  rw [region_length, wholeBlocks, leadingBlocks_length, region_leadingBlocks (Nat.mul_div_le _ _)]

section
variable {n : Nat} (hn : 3 ≤ n) {look : Nat → Datapath n → Nat} (hlook : StopsRewind n look) (tail : List Byte → Bool)
  (buffer : List Byte)

include hn

theorem validateBy_dp : (validateBy n look tail buffer).dp = afterBlocks (wholeBlocks n buffer) := by
  simp only [validateBy, blockLoop_eq (show 0 < n by omega), wholeBlocks]

/-- TAIL_OFF lies the lookahead's distance before the end of the processed region (R121). -/
theorem validateBy_tailOff :
    (validateBy n look tail buffer).tailOff =
      (region (wholeBlocks n buffer)).length - look (region (wholeBlocks n buffer)).length (afterBlocks (wholeBlocks n buffer)) := by
  simp only [validateBy, blockLoop_eq (show 0 < n by omega), wholeBlocks, region_length, leadingBlocks_length]

/-- A well-formed buffer sets no flag: the processed region begins it (R102). -/
theorem validateBy_errAny_of_wf (h : WF buffer) : (validateBy n look tail buffer).dp.errAny = false := by
  rw [validateBy_dp hn, afterBlocks_errAny_eq_false_iff hn, region_wholeBlocks]
  rw [← List.take_append_drop (region (wholeBlocks n buffer)).length buffer] at h
  exact h.beginsWellFormed.of_append

include hlook

/-- VALID asks for no flag, and for TAIL on everything from TAIL_OFF on: the slice ends where the buffer ends (R121 to R123). -/
theorem validateBy_valid :
    (validateBy n look tail buffer).valid =
      (!(validateBy n look tail buffer).dp.errAny && tail (buffer.drop (validateBy n look tail buffer).tailOff)) := by
  have hback := (hlook (wholeBlocks n buffer)).le_length
  rw [validateBy_dp hn, validateBy_tailOff hn]
  simp only [validateBy, blockLoop_eq (show 0 < n by omega), wholeBlocks, region_length, leadingBlocks_length] at hback ⊢
  rw [List.take_of_length_le]
  rw [List.length_drop]
  omega

/-- With no flag set the bytes before TAIL_OFF are complete sequences (R112). -/
theorem validateBy_wf_before (hflag : (validateBy n look tail buffer).dp.errAny = false) :
    WF (buffer.take (validateBy n look tail buffer).tailOff) := by
  rw [validateBy_dp hn, afterBlocks_errAny_eq_false_iff hn] at hflag
  have hwf := hflag.wf_take_of_rewindStops (hlook _)
  rw [region_wholeBlocks, List.take_take, ← region_wholeBlocks] at hwf
  rwa [validateBy_tailOff hn, ← Nat.min_eq_left (Nat.sub_le _ _)]

/-- With no flag set the buffer is well formed exactly when the slice from TAIL_OFF is (R112). -/
theorem validateBy_wf_iff (hflag : (validateBy n look tail buffer).dp.errAny = false) :
    WF buffer ↔ WF (buffer.drop (validateBy n look tail buffer).tailOff) := by
  have hcut := (validateBy_wf_before hn hlook tail buffer hflag).append_iff
    (t := buffer.drop (validateBy n look tail buffer).tailOff)
  rwa [List.take_append_drop] at hcut

/-- VALID decides well-formedness, whatever rule stops the rewind where it should (R129, R132). -/
theorem validateBy_valid_iff_wf (htail : TailContract tail) : (validateBy n look tail buffer).valid = true ↔ WF buffer := by
  rw [validateBy_valid hn hlook, Bool.and_eq_true, Bool.not_eq_true', htail]
  constructor
  · rintro ⟨hflag, hslice⟩
    exact (validateBy_wf_iff hn hlook tail buffer hflag).mpr hslice
  · intro h
    have hflag := validateBy_errAny_of_wf hn (look := look) tail buffer h
    exact ⟨hflag, (validateBy_wf_iff hn hlook tail buffer hflag).mp h⟩

end

end Sys2Proof.Machine
end

section
/-! PROOFS. INIT, FINISH and the rewind: what the two commands leave and answer, and why going back to the nearest lead byte hands TAIL
all that VALID depends on. -/

namespace Sys2Proof.Machine

/-- Settles O18: INIT leaves the zero state, and a second INIT the same. -/
theorem initZeroesTheDatapath : Obligations.InitZeroesTheDatapath := fun s =>
  ⟨_, exec_eq .init s, rfl, zero_errAny _, Datapath.zero_lookahead _, rfl⟩

/-- Settles O20: the answer of FINISH is ERR_ANY and LA, and only the response differs afterwards, which BLOCK clears. -/
theorem finishReports : Obligations.FinishReports := fun s =>
  ⟨s.dp.errAny, s.dp.lookahead, exec_eq .finish s, errAny_iff s.dp, Datapath.lookahead_eq_one, Datapath.lookahead_eq_two,
    Datapath.lookahead_eq_three, Datapath.lookahead_eq_zero, fun _ => rfl⟩

/-- Settles O21: neither a lead byte nor a flag is in the zero state. -/
theorem noRewindFromZeroState : Obligations.NoRewindFromZeroState := fun n => ⟨Datapath.zero_lookahead n, zero_errAny n⟩

/-- Settles O37: the invariant keeps LA behind the cursor and the remainder below a block, and LA is at most 3. -/
theorem rewindNeverPassesBufferStart : Obligations.RewindNeverPassesBufferStart := by
  intro s r hinv hhandoff
  have hback := hinv.rewind_le_pos hhandoff
  have hbounded := hinv.bounded
  have hla : r.la.toNat < 4 := r.la.isLt
  obtain ⟨-, hremainder, -⟩ := (State.phaseInv_handoff hhandoff).mp hinv.phase
  exact ⟨hback, by omega, by omega⟩

/-- Settles O52: LA stops the rewind at the start of a sequence or leaves none cut, and a well-formed front may be cut off. -/
theorem rewindIsSufficient : Obligations.RewindIsSufficient := by
  intro n tail buffer hn hflag
  have hthree : 3 ≤ n := by omega
  have hlook := lookahead_stopsRewind hthree
  exact ⟨validateBy_wf_before hthree hlook tail buffer hflag, validateBy_wf_iff hthree hlook tail buffer hflag⟩

/-- Settles O54: both rules stop the rewind where it should, so with a tail validator that meets its contract both verdicts say that
the buffer is well formed. -/
theorem alternativeLeadTestSameVerdict : Obligations.AlternativeLeadTestSameVerdict := by
  intro n tail buffer hn htail
  have hthree : 3 ≤ n := by omega
  rw [Bool.eq_iff_iff, validate, validateBy_valid_iff_wf hthree (alternativeLookahead_stopsRewind hthree) tail buffer htail,
    validateBy_valid_iff_wf hthree (lookahead_stopsRewind hthree) tail buffer htail]

end Sys2Proof.Machine
end

section
/-! SUPPORT. What VALIDATE outputs, field by field, over the closed form of its loop (R117, R121 to R123), and how far LA reaches back. -/

namespace Sys2Proof.Machine

section
variable {n : Nat} (tail : List Byte → Bool) (buffer : List Byte)

theorem validate_pos (hn : 0 < n) : (validate n tail buffer).pos = n * (buffer.length / n) := by
  simp only [validate, validateBy, blockLoop_eq hn]

theorem validate_tailOff :
    (validate n tail buffer).tailOff = (validate n tail buffer).pos - (validate n tail buffer).dp.lookahead.toNat := rfl

theorem validate_tailLen :
    (validate n tail buffer).tailLen =
      buffer.length - (validate n tail buffer).pos + (validate n tail buffer).dp.lookahead.toNat := rfl

/-- The bytes behind the cursor are those of an incomplete block (R117). -/
theorem validate_remainder (hn : 0 < n) : buffer.length - (validate n tail buffer).pos = buffer.length % n := by
  rw [validate_pos tail buffer hn, Nat.mod_eq_sub_mul_div]

theorem validate_pos_le (hn : 0 < n) : (validate n tail buffer).pos ≤ buffer.length := by
  rw [validate_pos tail buffer hn]
  exact Nat.mul_div_le _ _

/-- LA never reaches back behind the first byte of the buffer (R110, R122). -/
theorem validate_lookahead_le_pos (hn : 3 ≤ n) :
    (validate n tail buffer).dp.lookahead.toNat ≤ (validate n tail buffer).pos := by
  have hpos : 0 < n := by omega
  have hback := (lookahead_stopsRewind hn (wholeBlocks n buffer)).le_length
  rwa [region_length, wholeBlocks, leadingBlocks_length, ← validate_dp hpos tail, ← validate_pos tail buffer hpos] at hback

/-- VALID is 1 exactly on the well-formed buffers (R132). -/
theorem validate_valid_iff_wf (hn : 3 ≤ n) (htail : TailContract tail) : (validate n tail buffer).valid = true ↔ WF buffer :=
  validateBy_valid_iff_wf hn (lookahead_stopsRewind hn) tail buffer htail

end

end Sys2Proof.Machine
end

section
/-! SUPPORT. The machine through a whole VALIDATE, as one equation: its states in the loop, the rounds, and the state in which it is idle
again (R114). -/

namespace Sys2Proof.Machine

/-- In the loop of a VALIDATE, with the cursor and the datapath as the pseudocode's loop has them. -/
def State.inLoop (s : State) (data : Nat) (buffer : List Byte) (pos : Nat) (d : Datapath Config.blockSize) : State :=
  { s.begin data buffer.length buffer with dp := d, rsp := none, pos := pos, phase := .loop }

/-- Before the handoff: FINISH has answered what the datapath reports. -/
def State.inHandoff (s : State) (data : Nat) (buffer : List Byte) (pos : Nat) (d : Datapath Config.blockSize) : State :=
  { s.inLoop data buffer pos d with rsp := some d.response, phase := .handoff d.response }

/-- When VALIDATE has ended: every register and output is what the pseudocode gives, and nothing is watched any more. -/
def State.afterValidate (s : State) (p : Params) (data : Nat) (buffer : List Byte) : State :=
  let v := validate Config.blockSize p.tail buffer
  { s with dp := v.dp, base := data, len := buffer.length, pos := v.pos, tailOff := v.tailOff, tailLen := v.tailLen, valid := v.valid,
           rsp := some v.dp.response, phase := .idle, snapshot := [], disturbed := false }

/-- A request that meets the preconditions begins (R114). -/
theorem State.Asks.stepWith_begins {p : Params} {s : State} {data : Nat} {buffer : List Byte} {rest : List Request}
    (h : s.Asks p data buffer rest) : stepWith p s = .next ((s.withPort rest).begin data buffer.length buffer) :=
  stepWith_validate_begins h.idle h.request
    ((preconditions_ok ..).mpr ⟨blockSizeOk_blockSize, h.lenFits, h.addrFits, h.readable⟩)

section
variable (p : Params) {s : State} {data : Nat} {buffer : List Byte} (hread : s.mem.readBytes data buffer.length = some buffer)

include hread

/-! In the loop and before the handoff memory holds the buffer as it began. -/

theorem State.bufferIntact_inLoop (pos : Nat) (d : Datapath Config.blockSize) : (s.inLoop data buffer pos d).bufferIntact = true :=
  bufferIntact_begin hread

theorem State.bufferIntact_inHandoff (pos : Nat) (d : Datapath Config.blockSize) :
    (s.inHandoff data buffer pos d).bufferIntact = true :=
  bufferIntact_begin hread

/-- INIT leads to the loop, with no block run yet. -/
theorem stepWith_begin :
    stepWith p (s.begin data buffer.length buffer) = .next (s.inLoop data buffer 0 (Datapath.zero Config.blockSize)) :=
  stepWith_start p rfl (bufferIntact_begin hread)

/-- A step in the loop is a round of the pseudocode's loop while N bytes remain (R116). -/
theorem stepWith_inLoop {pos : Nat} (d : Datapath Config.blockSize) (hguard : Config.blockSize ≤ buffer.length - pos) :
    stepWith p (s.inLoop data buffer pos d) =
      .next (s.inLoop data buffer (pos + Config.blockSize) (d.block (blockAt Config.blockSize buffer pos))) :=
  stepWith_loop_block p rfl (State.bufferIntact_inLoop hread pos d) hguard

/-- The first `k` rounds take `k` steps and run the first `k` blocks of the buffer (R117). -/
theorem coreWith_run_rounds (k more : Nat) (hk : Config.blockSize * k ≤ buffer.length) :
    (coreWith p).run (more + k) (s.inLoop data buffer 0 (Datapath.zero Config.blockSize)) =
      (coreWith p).run more
        (s.inLoop data buffer (Config.blockSize * k) (afterBlocks (leadingBlocks Config.blockSize buffer k))) := by
  induction k generalizing more with
  | zero => rfl
  | succ k ih =>
    rw [Nat.mul_succ] at hk
    rw [← Nat.succ_add_eq_add_succ, ih _ (Nat.le_of_add_right_le hk),
      coreWith_run_succ p more (stepWith_inLoop p hread _ (Nat.le_sub_of_add_le' hk)), leadingBlocks_succ, afterBlocks_append,
      Nat.mul_succ]

/-- When fewer than N bytes remain FINISH leads to the handoff (R116). -/
theorem stepWith_inLoop_finish {pos : Nat} (d : Datapath Config.blockSize) (hguard : buffer.length - pos < Config.blockSize) :
    stepWith p (s.inLoop data buffer pos d) = .next (s.inHandoff data buffer pos d) :=
  stepWith_loop_finish p rfl (State.bufferIntact_inLoop hread pos d) hguard

/-- The handoff outputs what the pseudocode outputs (R121 to R123). -/
theorem stepWith_inHandoff_validate :
    stepWith p (s.inHandoff data buffer (validate Config.blockSize p.tail buffer).pos
      (validate Config.blockSize p.tail buffer).dp) = .next (s.afterValidate p data buffer) := by
  have hintact := State.bufferIntact_inHandoff hread (validate Config.blockSize p.tail buffer).pos
    (validate Config.blockSize p.tail buffer).dp
  have hrewind := validate_lookahead_le_pos p.tail buffer (show 3 ≤ Config.blockSize by decide)
  have hbounded := validate_pos_le p.tail buffer (show 0 < Config.blockSize by decide)
  exact stepWith_handoff p rfl hintact hrewind hbounded

end

/-- A whole VALIDATE, from the request to the idle machine: one step to begin, INIT, `floor(LEN / N)` rounds, FINISH and the handoff. -/
theorem State.Asks.run_eq {p : Params} {s : State} {data : Nat} {buffer : List Byte} {rest : List Request}
    (h : s.Asks p data buffer rest) :
    (coreWith p).run (buffer.length / Config.blockSize + 4) s = .next ((s.withPort rest).afterValidate p data buffer) := by
  have hread : (s.withPort rest).mem.readBytes data buffer.length = some buffer := h.readable
  have hblock : 0 < Config.blockSize := by decide
  have hremainder : buffer.length - (validate Config.blockSize p.tail buffer).pos < Config.blockSize := by
    rw [validate_remainder _ _ hblock]
    exact Nat.mod_lt _ hblock
  rw [coreWith_run_succ p _ h.stepWith_begins, coreWith_run_succ p _ (stepWith_begin p hread), Nat.add_comm,
    coreWith_run_rounds p hread _ 2 (Nat.mul_div_le _ _), ← validate_dp hblock p.tail, ← validate_pos p.tail buffer hblock,
    coreWith_run_succ p 1 (stepWith_inLoop_finish p hread _ hremainder),
    coreWith_run_succ p 0 (stepWith_inHandoff_validate p hread)]
  rfl

end Sys2Proof.Machine
end

section
/-! SUPPORT. A buffer the host has placed reads back, so a submitted VALIDATE asks for a readable buffer (R41, R156). -/

namespace Sys2Proof.Machine

/-- Placing bytes leaves the addresses below alone. -/
theorem Memory.read_writeBytes_below (bytes : List Byte) (m : Memory) {a c : Nat} (h : c < a) :
    (m.writeBytes a bytes).read c = m.read c := by
  induction bytes generalizing m a with
  | nil => rfl
  | cons b rest ih => rw [Memory.writeBytes, ih _ (Nat.lt_succ_of_lt h), Memory.read_write_other m b (Nat.ne_of_lt h)]

/-- Placed bytes read back. -/
theorem Memory.readBytes_writeBytes (bytes : List Byte) (m : Memory) (a : Nat) :
    (m.writeBytes a bytes).readBytes a bytes.length = some bytes := by
  induction bytes generalizing m a with
  | nil => rfl
  | cons b rest ih =>
    have hfirst : (m.writeBytes a (b :: rest)).read a = some b := by
      rw [Memory.writeBytes, Memory.read_writeBytes_below rest _ a.lt_succ_self, Memory.read_write_same]
    rw [List.length_cons, Memory.readBytes, hfirst, Memory.writeBytes, ih]

/-- What the host submits to an idle machine with an empty port is the next request, within the hardware's unbounded widths. -/
theorem State.submit_asks {s : State} (hidle : s.phase = .idle) (hport : s.port = []) (addr : Nat) (buffer : List Byte) :
    (s.submit addr buffer).Asks hardware addr buffer [] where
  idle := hidle
  request := by simp [State.submit, State.present, State.place, hport]
  readable := Memory.readBytes_writeBytes buffer s.mem addr
  lenFits := rfl
  addrFits := rfl

end Sys2Proof.Machine
end

section
/-! SUPPORT. The scanner decides WF (R127): a front that is a sequence may be cut off, and a well-formed string has one of one to four
bytes. -/

namespace Sys2Proof.Machine

theorem wf_nil : WF [] := ⟨[], by simp, rfl⟩

/-- A string of one sequence more is well formed exactly when the string behind it is. -/
theorem wf_sequence_append_iff {q : List Byte} (hq : isSequence q = true) (t : List Byte) : WF (q ++ t) ↔ WF t :=
  (WF.single hq).append_iff

/-- A well-formed string that is not empty begins with a sequence, of at most four bytes. -/
theorem WF.exists_take_isSequence {s : List Byte} (h : WF s) (hne : s ≠ []) : ∃ k < 4, isSequence (s.take (k + 1)) = true := by
  obtain ⟨seqs, hseqs, rfl⟩ := h
  cases seqs with
  | nil => exact absurd rfl hne
  | cons q seqs =>
    have hq := hseqs q List.mem_cons_self
    obtain ⟨a, cs, rfl⟩ := List.exists_cons_of_ne_nil (isSequence_ne_nil hq)
    have hlength : cs.length < 4 := length_of_isSequence_cons hq ▸ (ccnt (highNibble a)).isLt
    exact ⟨cs.length, hlength, by simpa using hq⟩

/-- A string none of whose fronts of one to four bytes is a sequence is not well formed. -/
theorem not_wf_of_no_sequence {s : List Byte} (hne : s ≠ []) (h1 : isSequence (s.take 1) ≠ true) (h2 : isSequence (s.take 2) ≠ true)
    (h3 : isSequence (s.take 3) ≠ true) (h4 : isSequence (s.take 4) ≠ true) : ¬WF s := by
  intro h
  obtain ⟨k, hk, hseq⟩ := h.exists_take_isSequence hne
  match k, hk with
  | 0, _ => exact h1 hseq
  | 1, _ => exact h2 hseq
  | 2, _ => exact h3 hseq
  | 3, _ => exact h4 hseq

/-- The scanner answers 1 exactly on the well-formed strings. -/
theorem wellFormedScan_iff_wf (s : List Byte) : wellFormedScan s = true ↔ WF s := by
  fun_induction wellFormedScan s with
  | case1 => exact iff_of_true rfl wf_nil
  | case2 a r1 h1 ih => exact ih.trans (wf_sequence_append_iff h1 r1).symm
  | case3 a h1 => exact iff_of_false Bool.false_ne_true (not_wf_of_no_sequence (List.cons_ne_nil _ _) h1 h1 h1 h1)
  | case4 a h1 b r2 h2 ih => exact ih.trans (wf_sequence_append_iff h2 r2).symm
  | case5 a h1 b h2 => exact iff_of_false Bool.false_ne_true (not_wf_of_no_sequence (List.cons_ne_nil _ _) h1 h2 h2 h2)
  | case6 a h1 b h2 c r3 h3 ih => exact ih.trans (wf_sequence_append_iff h3 r3).symm
  | case7 a h1 b h2 c h3 => exact iff_of_false Bool.false_ne_true (not_wf_of_no_sequence (List.cons_ne_nil _ _) h1 h2 h3 h3)
  | case8 a h1 b h2 c h3 d r4 ih =>
    rw [Bool.and_eq_true, ih]
    by_cases h4 : isSequence [a, b, c, d] = true
    · exact (and_iff_right h4).trans (wf_sequence_append_iff h4 r4).symm
    · exact iff_of_false (fun h => h4 h.1) (not_wf_of_no_sequence (List.cons_ne_nil _ _) h1 h2 h3 h4)

/-- The machine's TAIL meets the contract of R126 (P5). -/
theorem hardware_tailContract : TailContract hardware.tail := wellFormedScan_iff_wf

/-- A byte that is neither a sequence of its own nor a continuation byte ends no well-formed string (R133). -/
theorem not_wf_concat {z : Byte} (halone : isSequence [z] ≠ true) (hfirst : ¬(0x80#8 ≤ z ∧ z ≤ 0xBF#8)) (s : List Byte) :
    ¬WF (s ++ [z]) := by
  intro h
  obtain ⟨whole, q, hsplit, -, hq⟩ := h.exists_last_sequence (by simp)
  obtain ⟨before, y, rfl⟩ := (List.eq_nil_or_concat' q).resolve_left (isSequence_ne_nil hq)
  rw [← List.append_assoc] at hsplit
  obtain rfl : z = y := List.singleton_inj.mp (List.append_inj' hsplit rfl).2
  cases before with
  | nil => exact halone hq
  | cons a cs => exact hfirst (continuation_of_isSequence_cons hq z (by simp))

/-- A byte with its top bit cleared is a sequence of its own (R127). -/
theorem isSequence_masked : ∀ b : Byte, isSequence [b &&& 0x7F#8] = true := by decide

/-- Bytes with their top bits cleared are well formed (R133). -/
theorem wf_map_masked (buffer : List Byte) : WF (buffer.map fun b => b &&& 0x7F#8) := by
  induction buffer with
  | nil => exact wf_nil
  | cons b rest ih => exact (WF.single (isSequence_masked b)).append ih

end Sys2Proof.Machine
end

section
/-! PROOFS. The family of 42_sequencer_handoff.md: the steps of VALIDATE one by one, what a whole VALIDATE leaves and outputs, and that its
verdict is well-formedness. -/

namespace Sys2Proof.Machine

/-- Settles O44: after the run the machine is in the state that the pseudocode describes. -/
theorem machineRunsValidate : Obligations.MachineRunsValidate :=
  fun _ _ _ _ _ h => ⟨_, h.run_eq, rfl, rfl, rfl, rfl, rfl, rfl, rfl, rfl, rfl, rfl⟩

/-- Settles O53: LA stops the rewind where it should, and a host's call that P4 admits has a block size from 4. -/
theorem validateDecidesWellFormed : Obligations.ValidateDecidesWellFormed := by
  refine ⟨fun n tail hn htail buffer => validate_valid_iff_wf tail buffer (by omega) htail, ?_⟩
  intro n p m data len v htail hcall
  cases hpre : preconditions n p m data len with
  | error r => simp [validateAt, hpre] at hcall
  | ok buffer =>
    obtain rfl : validate n p.tail buffer = v := by simpa [validateAt, hpre] using hcall
    obtain ⟨hsize, -, -, hread⟩ := (preconditions_ok ..).mp hpre
    have hn : 4 ≤ n := of_decide_eq_true hsize
    exact ⟨buffer, hread, validate_valid_iff_wf p.tail buffer (by omega) htail⟩

/-- Settles O55: the three strings are not well formed, well formed and well formed, which VALID decides. -/
theorem testableProperties : Obligations.TestableProperties := by
  intro n tail hn htail
  have hverdict (buffer : List Byte) := validate_valid_iff_wf tail buffer (show 3 ≤ n by omega) htail
  refine ⟨fun buffer => ?_, fun k before q after _ _ _ hbefore hafter hq _ => ?_, fun buffer => ?_⟩
  · rw [← Bool.not_eq_true, hverdict]
    exact not_wf_concat (by decide) (by decide) buffer
  · exact (hverdict _).mpr ((hbefore.append (.single hq)).append hafter)
  · exact (hverdict _).mpr (wf_map_masked buffer)

/-- Settles O56: both runs end with what the pseudocode gives for the bytes of the buffer. -/
theorem validateIsPure : Obligations.ValidateIsPure :=
  fun _ _ _ _ _ _ _ _ h1 h2 => ⟨_, _, _, h1.run_eq, h2.run_eq, rfl, rfl, rfl, rfl, rfl, rfl, rfl, rfl, rfl⟩

/-- Settles O57: the submitted buffer reads back, the machine runs VALIDATE on it, and its TAIL meets the contract. -/
theorem submittedBufferIsJudged : Obligations.SubmittedBufferIsJudged :=
  fun _ addr buffer hidle hport => ⟨_, (State.submit_asks hidle hport addr buffer).run_eq, rfl, rfl,
    validate_valid_iff_wf hardware.tail buffer (by decide) hardware_tailContract⟩

/-- Settles O41: the slice is the end of the buffer as it began, which memory still holds. -/
theorem handoffOutputs : Obligations.HandoffOutputs := by
  intro p s r hhandoff hintact hrewind hbounded
  obtain ⟨-, hbuffer⟩ := (bufferIntact_iff s).mp hintact
  have hslice := Memory.readBytes_slice s.mem s.base s.len (s.pos - r.la.toNat) (s.len - s.pos + r.la.toNat) s.snapshot hbuffer
    (by omega)
  obtain ⟨hlength, hbytes⟩ := (Memory.readBytes_eq_some ..).mp hslice
  exact ⟨_, hlength, fun j hj => hbytes j (hj.trans_eq hlength), by omega,
    stepWith_handoff p hhandoff hintact hrewind hbounded⟩

/-- Settles O46, from the closed form of the loop. -/
theorem loopCount : Obligations.LoopCount := by
  intro n tail buffer hn
  have hpos : 0 < n := by omega
  exact ⟨validate_pos tail buffer hpos, validate_remainder tail buffer hpos, validate_dp hpos tail buffer⟩

/-- Settles O47: LA stays behind the cursor and is at most 3, and the remainder is shorter than a block. -/
theorem tailSliceInsideBuffer : Obligations.TailSliceInsideBuffer := by
  intro n tail buffer hn
  have hpos : 0 < n := by omega
  have hback := validate_lookahead_le_pos tail buffer (show 3 ≤ n by omega)
  have hbounded := validate_pos_le tail buffer hpos
  have hremainder := validate_remainder tail buffer hpos
  have hshort := Nat.mod_lt buffer.length hpos
  have hla : (validate n tail buffer).dp.lookahead.toNat < 4 := (validate n tail buffer).dp.lookahead.isLt
  rw [validate_tailOff, validate_tailLen]
  exact ⟨Nat.sub_le _ _, hbounded, by omega, by omega⟩

/-- Settles O49: the scanner answers 1 exactly on the well-formed strings, the empty one among them. -/
theorem hardwareTailMeetsContract : Obligations.HardwareTailMeetsContract := ⟨hardware_tailContract, rfl, wf_nil⟩

/-- Settles O38: the request meets the preconditions and begins, and INIT comes next. -/
theorem validateBegins : Obligations.ValidateBegins :=
  ⟨fun _ _ _ _ _ h => h.stepWith_begins, fun p _ hstart hintact => stepWith_start p hstart hintact⟩

/-- Settles O40, from what the loop does when fewer than N bytes remain. -/
theorem loopEndsWithFinish : Obligations.LoopEndsWithFinish :=
  fun p _ hloop hintact hguard => stepWith_loop_finish p hloop hintact hguard

/-- Settles O48: the loop ends before its first round, and from the zero state there is no flag and no rewind. -/
theorem shortBufferGoesToTail : Obligations.ShortBufferGoesToTail := by
  intro n tail buffer hshort
  have hend : blockLoop n buffer (buffer.length + 1) 0 (Datapath.zero n) = (0, Datapath.zero n) :=
    blockLoop_end n buffer _ 0 _ hshort
  simp [validate, validateBy, hend]

end Sys2Proof.Machine
end

section
/-! PROOFS. The family of 60_exceptions.md: what raises a lane's flag (R136), and that a flag already set does not disturb BLOCK (R142). -/

namespace Sys2Proof.Machine

section
variable {n : Nat} {d : Datapath n} {v : Vector Byte n} {i : Nat} {j : Index}

/-- A byte below the range of the lane's index is flagged (R90). -/
theorem laneError_of_lt_rmin (hindex : index d v i = j) (hlow : lane v i < rmin j) : laneError d v i = true := by
  subst hindex
  exact laneError_iff.mpr (.inl hlow)

/-- A byte above the range of the lane's index is flagged (R90). -/
theorem laneError_of_rmax_lt (hindex : index d v i = j) (hhigh : rmax j < lane v i) : laneError d v i = true := by
  subst hindex
  exact laneError_iff.mpr (.inr hhigh)

end

/-- The flags of a block are computed from the carried bytes and counts; EACC is not read (R142). -/
theorem errorFlags_with_eacc {n : Nat} (d : Datapath n) (acc : BitVec n) (v : Vector Byte n) :
    errorFlags { d with eacc := acc } v = errorFlags d v := by
  rw [errorFlags, errorFlags, funext (laneError_with_eacc d acc v)]

/-- Settles O31: where a byte is demanded an ASCII byte is flagged, at index 8 and at the sentinels the range test decides, and the
other causes are bytes past one end of the range of the lane's index. The cut sequence is evaluated. -/
theorem causesOfMalformation : Obligations.CausesOfMalformation := by
  refine ⟨fun n d v i _ => ⟨fun hindex => (laneError_of_index_eight hindex).mpr, fun hindex hcont => ?_, fun hdemanded _ hascii => ?_,
    laneError_of_sentinel, laneError_of_lt_rmin, laneError_of_lt_rmin, laneError_of_rmax_lt, laneError_of_rmax_lt⟩, by decide⟩
  · exact (laneError_continuation_iff hcont).mpr (.inl hindex)
  · exact (laneError_ascii_iff hascii).mpr (by bv_omega)

/-- Settles O25: the flags do not read EACC, and what BLOCK carries over are the last lanes, of which LA is a function. -/
theorem processingContinuesAfterError : Obligations.ProcessingContinuesAfterError := by
  intro n d acc lanes
  have hflags := errorFlags_with_eacc d acc lanes
  exact ⟨hflags, by rw [Datapath.block, hflags, Datapath.block], rfl⟩

end Sys2Proof.Machine
end

section
/-! PROOFS. The family of 70_reset_and_hazards.md: hardware reset and INIT leave states that no sequence of commands tells apart
(R151, R152). -/

namespace Sys2Proof.Machine

/-- States with the same datapath answer every sequence of commands the same and leave the same datapath: the sequencer's registers
and outputs, the port and the memory are not read (R63, R144). -/
theorem runCommands_of_dp_eq {s t : State} (h : s.dp = t.dp) (commands : List Instr) :
    ∃ answers u v, runCommands commands s = some (answers, u) ∧ runCommands commands t = some (answers, v) ∧ u.dp = v.dp := by
  obtain ⟨u, hu, hudp⟩ := runCommands_eq commands s
  obtain ⟨v, hv, hvdp⟩ := runCommands_eq commands t
  rw [← h] at hv hvdp
  exact ⟨responsesFrom commands s.dp, u, v, hu, hv, hudp.trans hvdp.symm⟩

/-- INIT leaves the zero datapath (R104). -/
theorem exec_init_dp {s t : State} (h : exec .init s = .next t) : t.dp = Datapath.zero Config.blockSize := by
  rw [exec_next h]
  rfl

/-- An idle machine takes the RESET request at the head of its port (R152). -/
theorem stepWith_idle_reset (p : Params) {s : State} {rest : List Request} (hidle : s.phase = .idle)
    (hport : s.port = .reset :: rest) : stepWith p s = .next (s.withPort rest).hardwareReset := by
  rw [stepWith_idle p hidle, takeRequest, hport]

/-- Settles O43: reset and INIT both leave the zero datapath, and the answers and datapaths of commands follow from the datapath. -/
theorem resetIsInitWithZeroCursor : Obligations.ResetIsInitWithZeroCursor := by
  refine ⟨fun s t hinit => ?_, fun p s rest hidle hport => stepWith_idle_reset p hidle hport⟩
  have hdp : s.hardwareReset.dp = t.dp := s.hardwareReset_dp.trans (exec_init_dp hinit).symm
  exact ⟨hdp, s.hardwareReset_pos, s.hardwareReset_len, s.hardwareReset_base, s.hardwareReset_tailOff, s.hardwareReset_tailLen,
    s.hardwareReset_valid, s.hardwareReset_mem, runCommands_of_dp_eq hdp⟩

end Sys2Proof.Machine
end
